-- ==== Sys2Proof/Word.lean ====
section
/-! DEFINITION. The two word types of the CSParve64 CORE (00_scope.md R8: a byte is 8 bits, a word 32 bits, both
unsigned). All arithmetic on them wraps (R9); helpers on bits and bytes stand in Machine/Ops.lean. -/

namespace Sys2Proof

/-- A byte, 0 .. 255 (00_scope.md R8). -/
abbrev Byte := BitVec 8

/-- A 32-bit word, 0 .. 2^32 - 1 (00_scope.md R8). -/
abbrev Word := BitVec 32

end Sys2Proof
end

