-- ==== Sys2Proof/Syntax.lean ====
section
/-! DEFINITION. The commands of the core, one constructor per row of spec/opcode_table.json, and the host's moves. -/

namespace Sys2Proof

/-- The eight commands (30_encoding.md R74). A command word carries no operand (R72): operands come from the
operand registers and the key state as they stand when the command is issued. -/
inductive Instr where
  /-- Load the Parve key (40_setup.md R91). -/
  | ldkey
  /-- Load the S-box (40_setup.md R92). -/
  | ldsbox
  /-- Encrypt the 8-byte block at `ADDR` in place (41_parve.md R104). -/
  | penc
  /-- Decrypt the 8-byte block at `ADDR` in place (41_parve.md R107). -/
  | pdec
  /-- Parve-CBC-MAC of the buffer (42_cbcmac.md R122). -/
  | cbcmac
  /-- Key and warm up the BV4 stream cipher (43_bv4.md R131). -/
  | bv4key
  /-- XOR the BV4 keystream into the buffer (43_bv4.md R139). -/
  | bv4crypt
  /-- Modular chain-and-sum MAC of the buffer (44_csmod.md R154). -/
  | csmod
  deriving DecidableEq, Repr

/-- The moves of the host (30_encoding.md R82): everything the outside world can do to the core. A move that the
tables of 10_state.md R22 and 20_memory.md R50 do not allow can be written down here; it is ill-formed
(`HostMove.wellFormed`) and the machine gives it no meaning (93_implementation_defined.md U9). -/
inductive HostMove where
  /-- `WR idx, v`: write a 32-bit value to an interface register; index 0 issues a command. -/
  | wr (idx : Nat) (v : Word)
  /-- `RD idx`: read an interface register. -/
  | rd (idx : Nat)
  /-- `MEMWR a, b0 b1 ...`: write bytes at consecutive addresses from a. -/
  | memwr (a : Nat) (bs : List Byte)
  /-- `MEMRD a, n`: read n bytes from a. -/
  | memrd (a n : Nat)
  /-- `RESET`: the Reset event. -/
  | reset
  deriving DecidableEq, Repr

/-- What a reading move returns to the host. -/
inductive Answer where
  /-- The value of a register (`RD`). -/
  | word (v : Word)
  /-- Bytes of memory, lowest address first (`MEMRD`). -/
  | bytes (bs : List Byte)
  deriving DecidableEq, Repr

end Sys2Proof
end

