-- ==== Sys2Proof/WellFormed.lean ====
section
/-! DEFINITION. Which terms of Syntax.lean the spec admits. -/

namespace Sys2Proof

/-- A command has no field, so there is nothing to check: every term is well-formed (30_encoding.md R72). -/
def Instr.wellFormed : Instr → Bool
  | .ldkey | .ldsbox | .penc | .pdec | .cbcmac | .bv4key | .bv4crypt | .csmod => true

/-- The registers a host may write (10_state.md R22): `CMD` (0) and the operand registers 2 .. 8. -/
def hostMayWrite (idx : Nat) : Bool := idx == 0 || (2 ≤ idx && idx ≤ 8)

/-- The registers a host may read (10_state.md R22): all but `CMD`, that is 1 .. 10. -/
def hostMayRead (idx : Nat) : Bool := 1 ≤ idx && idx ≤ 10

/-- n bytes from a lie inside `MEM[0 .. memSize-1]` (20_memory.md R50); no byte at all lies anywhere. -/
def hostSpan (memSize a n : Nat) : Bool := n == 0 || a + n ≤ memSize

/-- The host's move set (10_state.md R22, 20_memory.md R50, 93_implementation_defined.md U9). -/
def HostMove.wellFormed (memSize : Nat) : HostMove → Bool
  | .wr idx _ => hostMayWrite idx
  | .rd idx => hostMayRead idx
  | .memwr a bs => hostSpan memSize a bs.length
  | .memrd a n => hostSpan memSize a n
  | .reset => true

end Sys2Proof
end

