-- ==== Sys2Proof/Decode.lean ====
section
/-! DEFINITION. Command words: the decoder, total on every 32-bit word and rejecting by name, the encoder, and the
reading of a row of spec/opcode_table.json. A command word is a 32-bit value written as a whole: it has no byte order
(20_memory.md R53, 30_encoding.md R71; entry 18). -/

namespace Sys2Proof

/-- Why a word is no command. The machine refuses both alike, with ILLEGAL_COMMAND (30_encoding.md R79). -/
inductive DecodeError where
  /-- `RSV`, bits 31:8, is not zero. -/
  | reservedNotZero
  /-- `RSV` is zero and `OPC` is none of the eight opcodes. -/
  | unknownOpcode
  deriving DecidableEq, Repr

/-- `RSV`, bits 31:8 of a command word (30_encoding.md R71). -/
def rsvField (w : Word) : BitVec 24 := w.extractLsb' 8 24

/-- `OPC`, bits 7:0 of a command word (30_encoding.md R71). -/
def opcField (w : Word) : Byte := w.extractLsb' 0 8

/-- The opcode map read from a word (30_encoding.md R74, R81). -/
def decodeOpcode (o : Byte) : Except DecodeError Instr :=
  if o = 0x01#8 then .ok .ldkey
  else if o = 0x02#8 then .ok .ldsbox
  else if o = 0x10#8 then .ok .penc
  else if o = 0x11#8 then .ok .pdec
  else if o = 0x12#8 then .ok .cbcmac
  else if o = 0x20#8 then .ok .bv4key
  else if o = 0x21#8 then .ok .bv4crypt
  else if o = 0x30#8 then .ok .csmod
  else .error .unknownOpcode

/-- Decode, total on every word and reading no state (30_encoding.md R81). -/
def decode (w : Word) : Except DecodeError Instr :=
  if rsvField w = 0#24 then decodeOpcode (opcField w) else .error .reservedNotZero

/-- The `OPC` column of the opcode map (30_encoding.md R74). -/
def opcode : Instr → Byte
  | .ldkey => 0x01#8
  | .ldsbox => 0x02#8
  | .penc => 0x10#8
  | .pdec => 0x11#8
  | .cbcmac => 0x12#8
  | .bv4key => 0x20#8
  | .bv4crypt => 0x21#8
  | .csmod => 0x30#8

/-- The command word: `RSV` = 0 above `OPC` (30_encoding.md R71, R74, R81). -/
def encode (i : Instr) : Word := 0#24 ++ opcode i

/-- The instruction the decoder reads from a table row's bits: bit 0 is the least significant bit of the one
command word, bits above nbits are 0. A number with a set bit above bit 31 is no command word. -/
def decodeTableWord (nbits w : Nat) : Option Instr :=
  if w % 2 ^ nbits < 2 ^ 32 then (decode (BitVec.ofNat 32 (w % 2 ^ nbits))).toOption else none

end Sys2Proof
end

