-- ==== Sys2Proof/Config.lean ====
section
/-! DEFINITION. What an implementation fixes and what the spec leaves open. Every constant here has no body: no proof
can see its value, so a claim holds for every value.

DESIGN CHOICE (entry 5, safe): the open parameter `MEMSIZE` is `lastAddress + 1`, so its range 0 < MEMSIZE <= 2^32
(00_scope.md R7) holds by construction.
DESIGN CHOICE (entry 8, safe): after the n-th `Reset` MOVE each register that 10_state.md R41 calls unspecified holds
the value drawn for n below, fixed until it is written. -/

namespace Sys2Proof

/-- The highest address of `MEM`: `MEMSIZE - 1` (20_memory.md R50, 92_eei_decisions.md D9). -/
opaque Config.lastAddress : Word

/-- What register `idx` (an operand or result register) holds after `Reset` number n (93 U2, U3). -/
opaque Config.resetRegister : Nat → Nat → Word

/-- What `K[i]` holds after `Reset` number n (93 U1). -/
opaque Config.resetKey : Nat → Nat → Byte

/-- What `S[i]` holds after `Reset` number n (93 U1). -/
opaque Config.resetSbox : Nat → Nat → Byte

/-- What the BV4 cell `s[i]` holds after `Reset` number n (93 U1). -/
opaque Config.resetPerm : Nat → Nat → Byte

/-- What the BV4 index `i` holds after `Reset` number n (93 U1). -/
opaque Config.resetIndexI : Nat → Byte

/-- What the BV4 index `j` holds after `Reset` number n (93 U1). -/
opaque Config.resetIndexJ : Nat → Byte

/-- What the BV4 scalar `h` holds after `Reset` number n (93 U1). -/
opaque Config.resetScalar : Nat → Word

/-- What the BV4 word `y[m]` holds after `Reset` number n (93 U1). -/
opaque Config.resetTable : Nat → Nat → Word

end Sys2Proof
end

