-- ==== Sys2Proof/Machine/State.lean ====
section
/-! DEFINITION. The state of the machine as plain data, and the state after reset. -/

namespace Sys2Proof.Machine

/-- No behaviour of the core is a fault or a stuck state (93_implementation_defined.md section 1, 60_exceptions.md
R175, R186): nothing raises one, so the type has no constructor (entry 14). A refused COMMAND is a next state. -/
inductive Fault where
  deriving DecidableEq, Repr

/-- Why the MODEL gives a step no meaning. Raised only by `performMove`, for a host move outside the host's move set
(93_implementation_defined.md U9, 92_eei_decisions.md D21); all safe: the model stops where the spec defines nothing. -/
inductive Refusal where
  /-- The arm of `exec` for an instruction without a meaning; no arm raises it. Safe. -/
  | notModelled (mnemonic : String)
  /-- `WR` to `STATUS`, `RES_HI`, `RES_LO` or an index above 10 (10_state.md R22). Safe. -/
  | undefinedRegisterWrite (idx : Nat)
  /-- `RD` of `CMD` or of an index above 10 (10_state.md R22). Safe. -/
  | undefinedRegisterRead (idx : Nat)
  /-- `MEMWR` of a byte at an address >= MEMSIZE (20_memory.md R50). Safe. -/
  | memoryWriteOutside (a : Nat)
  /-- `MEMRD` of a byte at an address >= MEMSIZE (20_memory.md R50). Safe. -/
  | memoryReadOutside (a : Nat)
  deriving DecidableEq, Repr

/-- The values of `STATUS.ECODE` the core produces (60_exceptions.md R171); codes 5, 6, 7 are never produced
(93_implementation_defined.md U15). -/
inductive ECode where
  | none
  | illegalCommand
  | missingInput
  | badLength
  | badAddress
  deriving DecidableEq, Repr

/-- The BV4 phase `BV4PH` (10_state.md R36). -/
inductive Phase where
  | idle
  | keyScheduled
  | warmedUp
  | streaming
  deriving DecidableEq, Repr

/-- The fields of `STATUS` (10_state.md R23). The register's word, reserved bits included, is `Status.toWord` in
Machine/Flags.lean; the host cannot write it, so the fields are all there is (entry 16). -/
structure Status where
  /-- bit 0: the most recent command was refused -/
  err : Bool
  /-- bits 3:1: the reason of the most recent refusal -/
  ecode : ECode
  /-- bit 4: `K` holds a key -/
  kv : Bool
  /-- bit 5: `S` holds an S-box -/
  sv : Bool
  /-- bit 6: `RES_HI`, `RES_LO` hold a result -/
  rv : Bool
  /-- bits 9:8: the BV4 phase -/
  bv4ph : Phase
  deriving DecidableEq, Repr

/-- The BV4 registers (10_state.md R29, 43_bv4.md R130). -/
structure Bv4 where
  /-- `s[0..255]` -/
  s : Vector Byte 256
  /-- `i` -/
  i : Byte
  /-- `j` -/
  j : Byte
  /-- `h` -/
  h : Word
  /-- `y[0..31]` -/
  y : Vector Word 32
  deriving DecidableEq, Repr

/-- Buffer memory as (address, byte) pairs in ONE canonical form, `Memory.wf`. -/
abbrev Memory := List Host.Cell

/-- What an address reads as that no write has reached: the spec gives power-up memory no value
(93_implementation_defined.md U13). DESIGN CHOICE (entry 4, unsafe): 0x00. -/
def Memory.blankByte : Byte := 0x00#8

/-- The canonical form: addresses strictly rising, no entry equal to what an unlisted address reads as. -/
abbrev Memory.wf (m : Memory) : Prop :=
  m.Pairwise (fun c d => c.1 < d.1) ∧ ∀ c ∈ m, c.2 ≠ Memory.blankByte

/-- Everything the spec gives the machine (10_state.md R21), and four fields of the model's own. -/
structure State where
  /-- `CMD`, register 0: the last command word written (R22) -/
  cmd : Word
  /-- `STATUS`, register 1 (R23) -/
  status : Status
  /-- `ADDR`, register 2 (R22, R24) -/
  addr : Word
  /-- `LEN`, register 3 (R22, R24) -/
  len : Word
  /-- `SEED_HI`, register 4 (R22, R24) -/
  seedHi : Word
  /-- `SEED_LO`, register 5 (R22, R24) -/
  seedLo : Word
  /-- `KC`, register 6 (R22, R24) -/
  kc : Word
  /-- `KD`, register 7 (R22, R24) -/
  kd : Word
  /-- `KE`, register 8 (R22, R24) -/
  ke : Word
  /-- `RES_HI`, register 9 (R26) -/
  resHi : Word
  /-- `RES_LO`, register 10 (R26) -/
  resLo : Word
  /-- `K[0..7]`, the Parve key (R27) -/
  key : Vector Byte 8
  /-- `S[0..255]`, the S-box (R28) -/
  sbox : Vector Byte 256
  /-- `s`, `i`, `j`, `h`, `y` (R29) -/
  bv4 : Bv4
  /-- `MEM` (R40) -/
  mem : Memory
  /-- model's own: the highest address of `MEM`; configuration that no step writes (entry 5) -/
  memLast : Word
  /-- model's own: the moves the host has still to make, oldest first (entry 6) -/
  pending : List HostMove
  /-- model's own: what the host's reading moves returned, newest first (entry 7) -/
  answers : List Answer
  /-- model's own: how many `Reset` moves were made (entry 8) -/
  resets : Nat
  deriving DecidableEq, Repr

/-- `MEMSIZE`, 1 .. 2^32 (00_scope.md R7, 20_memory.md R50). -/
def State.memSize (s : State) : Nat := s.memLast.toNat + 1

/-- `STATUS` = 0: no error, nothing valid, phase Idle (10_state.md R41). -/
def Status.cleared : Status :=
  { err := false, ecode := .none, kv := false, sv := false, rv := false, bv4ph := .idle }

/-- The machine right after reset (10_state.md R41, 70_reset_and_hazards.md R190): `STATUS` = 0, nothing in memory
listed, no move pending. R41 gives no other register a value. DESIGN CHOICE, unsafe: zero in each (entries 1, 2, 3).
`MEMSIZE` is whatever the implementation fixes (entry 5). -/
def State.reset : State where
  cmd := 0#32
  status := Status.cleared
  addr := 0#32
  len := 0#32
  seedHi := 0#32
  seedLo := 0#32
  kc := 0#32
  kd := 0#32
  ke := 0#32
  resHi := 0#32
  resLo := 0#32
  key := Vector.replicate 8 0#8
  sbox := Vector.replicate 256 0#8
  bv4 := { s := Vector.replicate 256 0#8, i := 0#8, j := 0#8, h := 0#32, y := Vector.replicate 32 0#32 }
  mem := []
  memLast := Config.lastAddress
  pending := []
  answers := []
  resets := 0

end Sys2Proof.Machine
end

