-- ==== Sys2Proof/Machine/Flags.lean ====
section
/-! DEFINITION. The `STATUS` register: its bit layout and every update of its fields (10_state.md R23, R36, R37;
60_exceptions.md R171, R172, R174). The core has no arithmetic condition codes (R37). -/

namespace Sys2Proof.Machine

/-- The code values of 60_exceptions.md R171. -/
def ECode.toBits : ECode → BitVec 3
  | .none => 0#3
  | .illegalCommand => 1#3
  | .missingInput => 2#3
  | .badLength => 3#3
  | .badAddress => 4#3

/-- The phase values of 10_state.md R36. -/
def Phase.toBits : Phase → BitVec 2
  | .idle => 0#2
  | .keyScheduled => 1#2
  | .warmedUp => 2#2
  | .streaming => 3#2

/-- The word a host reads from `STATUS` (10_state.md R23): bits 31:10 zero, `BV4PH` 9:8, bit 7 zero, `RV` 6, `SV` 5,
`KV` 4, `ECODE` 3:1, `ERR` 0. -/
def Status.toWord (st : Status) : Word :=
  0#22 ++ st.bv4ph.toBits ++ 0#1 ++ BitVec.ofBool st.rv ++ BitVec.ofBool st.sv ++ BitVec.ofBool st.kv ++
    st.ecode.toBits ++ BitVec.ofBool st.err

/-- `ERR <- 0 ; ECODE <- 0` (60_exceptions.md R174). -/
def Status.accepted (st : Status) : Status := { st with err := false, ecode := .none }

/-- `ERR <- 1 ; ECODE <- code` (60_exceptions.md R172). -/
def Status.rejected (st : Status) (c : ECode) : Status := { st with err := true, ecode := c }

/-- `KV <- 1` (40_setup.md R91). -/
def Status.keyLoaded (st : Status) : Status := { st with kv := true }

/-- `SV <- 1` (40_setup.md R92). -/
def Status.sboxLoaded (st : Status) : Status := { st with sv := true }

/-- `RV <- 1` (42_cbcmac.md R122, 44_csmod.md R154). -/
def Status.resultReady (st : Status) : Status := { st with rv := true }

/-- `BV4PH <- p` (10_state.md R36). -/
def Status.inPhase (st : Status) (p : Phase) : Status := { st with bv4ph := p }

/-- Both the key and the S-box were loaded since Reset: `KV` = 1 and `SV` = 1 (10_state.md R37). -/
def Status.parveReady (st : Status) : Bool := st.kv && st.sv

/-- A keystream exists: `BV4PH` is WarmedUp or Streaming (43_bv4.md R139, 60_exceptions.md R173). -/
def Status.streamReady (st : Status) : Bool := st.bv4ph == .warmedUp || st.bv4ph == .streaming

end Sys2Proof.Machine
end

