-- ==== Sys2Proof/Machine/Ops.lean ====
section
/-! DEFINITION. The named operations every meaning is written with: rotates and big-endian assembly (00_scope.md R10,
R11), the reduction modulo 2^31 - 1 (R13), buffer memory (R12, 20_memory.md R51), the updates of a state, the two
outcomes of a command's check (60_exceptions.md R172, R174), and the interface registers (10_state.md R22). -/

namespace Sys2Proof.Machine

/-! ### Bytes and words -/

/-- `rotl8(v, n)` (00_scope.md R10; entry 17). -/
def rotl8 (v : Byte) (n : Nat) : Byte := (v <<< n) ||| (v >>> (8 - n))

/-- `rotr8(v, n)` (00_scope.md R10; entry 17). -/
def rotr8 (v : Byte) (n : Nat) : Byte := (v >>> n) ||| (v <<< (8 - n))

/-- `BE32(b0, b1, b2, b3)`: b0 is the most significant byte (00_scope.md R11). -/
def be32 (b0 b1 b2 b3 : Byte) : Word := b0 ++ b1 ++ b2 ++ b3

/-- `UNBE32(w)`: the bytes of a word, most significant first (00_scope.md R11). -/
def unbe32 (w : Word) : List Byte :=
  [w.extractLsb' 24 8, w.extractLsb' 16 8, w.extractLsb' 8 8, w.extractLsb' 0 8]

/-- `u32(b)`: a byte zero-extended to a word (00_scope.md R9). -/
def u32 (b : Byte) : Word := b.setWidth 32

/-- `u8(w) = w[7:0]` (00_scope.md R9). -/
def u8 (w : Word) : Byte := w.setWidth 8

/-- The modulus P = 2^31 - 1 of CSMOD (00_scope.md R7). -/
def modulusP : Nat := 2147483647

/-- `Red(v) = v mod (2^31 - 1)` (00_scope.md R13). -/
def red (v : Nat) : Nat := v % modulusP

/-- Cell `t` of a 256-byte table, indexed by a byte. -/
def byteAt (tab : Vector Byte 256) (t : Byte) : Byte := tab[t.toNat]'t.isLt

/-- Write cell `t` of a 256-byte table. -/
def setByteAt (tab : Vector Byte 256) (t v : Byte) : Vector Byte 256 := tab.set t.toNat v t.isLt

/-- `swap(tab[i], tab[j])` (00_scope.md R12). -/
def swapAt (tab : Vector Byte 256) (i j : Byte) : Vector Byte 256 := tab.swap i.toNat j.toNat i.isLt j.isLt

/-! ### Buffer memory -/

/-- `MEM[a]`: the listed byte, or what an unlisted address reads as (20_memory.md R50, R58; entry 4). -/
def Memory.read : Memory → Nat → Byte
  | [], _ => Memory.blankByte
  | c :: m, a => if a = c.1 then c.2 else Memory.read m a

/-- `MEM[a] <- b`, keeping the canonical form `Memory.wf` (00_scope.md R12). -/
def Memory.write : Memory → Nat → Byte → Memory
  | [], a, b => if b = Memory.blankByte then [] else [(a, b)]
  | c :: m, a, b =>
    if a < c.1 then (if b = Memory.blankByte then c :: m else (a, b) :: c :: m)
    else if a = c.1 then (if b = Memory.blankByte then m else (a, b) :: m)
    else c :: Memory.write m a b

/-- `MemRead(a, n)` as a byte list, lowest address first (00_scope.md R12). -/
def Memory.readBytes (m : Memory) (a : Nat) : Nat → List Byte
  | 0 => []
  | n + 1 => m.read a :: Memory.readBytes m (a + 1) n

/-- `MemRead(a, n)` as a register array: element i is `MEM[a + i]` (20_memory.md R52). -/
def Memory.readArray (m : Memory) (a n : Nat) : Vector Byte n := Vector.ofFn fun i => m.read (a + i.val)

/-- `MemWrite(a, n, v)`: the bytes of v, lowest index at the lowest address (00_scope.md R12). -/
def Memory.writeBytes (m : Memory) (a : Nat) : List Byte → Memory
  | [] => m
  | b :: bs => Memory.writeBytes (m.write a b) (a + 1) bs

/-- `MemRead32(a)`, big-endian (20_memory.md R51). -/
def Memory.read32 (m : Memory) (a : Nat) : Word :=
  be32 (m.read a) (m.read (a + 1)) (m.read (a + 2)) (m.read (a + 3))

/-- `MemWrite32(a, w)`, big-endian (00_scope.md R12, 20_memory.md R51). -/
def Memory.write32 (m : Memory) (a : Nat) (w : Word) : Memory := m.writeBytes a (unbe32 w)

/-! ### Updates of a state -/

/-- Replace `STATUS`. -/
def State.setStatus (s : State) (st : Status) : State := { s with status := st }

/-- Replace buffer memory. -/
def State.setMem (s : State) (m : Memory) : State := { s with mem := m }

/-- Replace the Parve key. -/
def State.setKey (s : State) (k : Vector Byte 8) : State := { s with key := k }

/-- Replace the S-box. -/
def State.setSbox (s : State) (tab : Vector Byte 256) : State := { s with sbox := tab }

/-- Replace the BV4 registers. -/
def State.setBv4 (s : State) (b : Bv4) : State := { s with bv4 := b }

/-- Replace the result pair (10_state.md R26, 30_encoding.md R76). -/
def State.setResult (s : State) (hi lo : Word) : State := { s with resHi := hi, resLo := lo }

/-- Replace `CMD`. -/
def State.setCmd (s : State) (w : Word) : State := { s with cmd := w }

/-- Replace the list of moves to come (entry 6). -/
def State.setPending (s : State) (ms : List HostMove) : State := { s with pending := ms }

/-- Return a value to the host (entry 7). -/
def State.answer (s : State) (v : Answer) : State := { s with answers := v :: s.answers }

/-! ### The two outcomes of a command's check -/

/-- `raise Refuse(code)`, the core's one exceptional outcome: `ERR` and `ECODE`, and nothing else
(60_exceptions.md R172). No state is saved, no control transferred (R180); leaving it is the next accepted command
(R181). -/
def State.refuse (s : State) (c : ECode) : State := s.setStatus (s.status.rejected c)

/-- Acceptance: `ERR` and `ECODE` cleared before the command's own effect (60_exceptions.md R174). -/
def State.accept (s : State) : State := s.setStatus s.status.accepted

/-- A command with its check made on the state as it finds it: the first failing check refuses it, else it is
accepted and has its effect whole (60_exceptions.md R173, R175). -/
def State.attempt (s : State) (check : ECode) (effect : State → State) : State :=
  if check = .none then effect s.accept else s.refuse check

/-! ### Interface registers -/

/-- `RD idx` (10_state.md R22): the value of a readable register. -/
def State.readRegister (s : State) (idx : Nat) : Option Word :=
  match idx with
  | 1 => some s.status.toWord
  | 2 => some s.addr
  | 3 => some s.len
  | 4 => some s.seedHi
  | 5 => some s.seedLo
  | 6 => some s.kc
  | 7 => some s.kd
  | 8 => some s.ke
  | 9 => some s.resHi
  | 10 => some s.resLo
  | _ => none

/-- `WR idx, v` to a read-write register (10_state.md R22, R24). `CMD` (0) is issued, not stored to: see
Machine/HostMoves.lean. -/
def State.writeRegister (s : State) (idx : Nat) (v : Word) : Option State :=
  match idx with
  | 2 => some { s with addr := v }
  | 3 => some { s with len := v }
  | 4 => some { s with seedHi := v }
  | 5 => some { s with seedLo := v }
  | 6 => some { s with kc := v }
  | 7 => some { s with kd := v }
  | 8 => some { s with ke := v }
  | _ => none

end Sys2Proof.Machine
end

