-- ==== Sys2Proof/Machine/Operands.lean ====
section
/-! DEFINITION. Operands of the commands: sizes, the checks made before any effect (20_memory.md R55, R57;
60_exceptions.md R173), and the reading of keys, blocks and words (20_memory.md R51, R52; 30_encoding.md R73, R77). -/

namespace Sys2Proof.Machine

/-- The byte address of the operand, an unbounded integer (30_encoding.md R73, 20_memory.md R57). -/
def State.base (s : State) : Nat := s.addr.toNat

/-- The byte length of the operand, for the commands that take one (30_encoding.md R73). -/
def State.bytes (s : State) : Nat := s.len.toNat

/-- `LEN` >= 8 and `LEN` mod 8 = 0: CBCMAC and CSMOD (20_memory.md R55). -/
def blockLength (n : Nat) : Bool := 8 ≤ n && n % 8 == 0

/-- `LEN` mod 4 = 0: BV4CRYPT, 0 included (20_memory.md R55). -/
def wordLength (n : Nat) : Bool := n % 4 == 0

/-- `ADDR + nbytes <= MEMSIZE`, the sum without wrap (20_memory.md R57). -/
def State.inRange (s : State) (nbytes : Nat) : Bool := s.base + nbytes ≤ s.memSize

/-- The first failing check after decode gives the code: missing input, then length, then range
(60_exceptions.md R173). -/
def firstFailure (inputOk lengthOk rangeOk : Bool) : ECode :=
  if inputOk then
    if lengthOk then
      if rangeOk then .none else .badAddress
    else .badLength
  else .missingInput

/-- The check of LDKEY, LDSBOX and BV4KEY: range only (60_exceptions.md R173). -/
def State.checkFixed (s : State) (nbytes : Nat) : ECode := firstFailure true true (s.inRange nbytes)

/-- The check of PENC and PDEC (60_exceptions.md R173). -/
def State.checkBlock (s : State) : ECode := firstFailure s.status.parveReady true (s.inRange 8)

/-- The check of CBCMAC (60_exceptions.md R173). -/
def State.checkCbcmac (s : State) : ECode :=
  firstFailure s.status.parveReady (blockLength s.bytes) (s.inRange s.bytes)

/-- The check of BV4CRYPT (60_exceptions.md R173). -/
def State.checkCrypt (s : State) : ECode :=
  firstFailure s.status.streamReady (wordLength s.bytes) (s.inRange s.bytes)

/-- The check of CSMOD (60_exceptions.md R173). -/
def State.checkCsmod (s : State) : ECode := firstFailure true (blockLength s.bytes) (s.inRange s.bytes)

/-- n consecutive 8-byte blocks from a, in ascending order (30_encoding.md R77). -/
def Memory.readBlocks (m : Memory) (a : Nat) : Nat → List (Vector Byte 8)
  | 0 => []
  | n + 1 => m.readArray a 8 :: Memory.readBlocks m (a + 8) n

/-- n consecutive pairs of big-endian words from a, in ascending order (30_encoding.md R77). -/
def Memory.readPairs (m : Memory) (a : Nat) : Nat → List (Word × Word)
  | 0 => []
  | n + 1 => (m.read32 a, m.read32 (a + 4)) :: Memory.readPairs m (a + 8) n

end Sys2Proof.Machine
end

