-- ==== Sys2Proof/Machine/Parve.lean ====
section
/-! DEFINITION. The Parve block cipher and the commands PENC and PDEC (41_parve.md). -/

namespace Sys2Proof.Machine

/-- An 8-byte Parve block `B[0..7]` (41_parve.md R100). -/
abbrev Block := Vector Byte 8

/-- The S-box index `(K[a] + B[a] + r) mod 256` (41_parve.md R101). -/
def parveIndex (k b : Block) (a : Fin 8) (r : Byte) : Byte := k[a] + b[a] + r

/-- One encrypt step from byte a to byte t (41_parve.md R101). -/
def encStep (k : Block) (tab : Vector Byte 256) (r : Byte) (b : Block) (p : Fin 8 × Fin 8) : Block :=
  b.set p.2 (rotl8 (b[p.2] + byteAt tab (parveIndex k b p.1 r)) 1)

/-- One decrypt step: the rotation is undone first, then the S-box term is subtracted (41_parve.md R105). -/
def decStep (k : Block) (tab : Vector Byte 256) (r : Byte) (b : Block) (p : Fin 8 × Fin 8) : Block :=
  b.set p.2 (rotr8 b[p.2] 1 - byteAt tab (parveIndex k b p.1 r))

/-- The (source, target) positions of an encrypt round, in order (41_parve.md R102). -/
def encOrder : List (Fin 8 × Fin 8) := [(0, 1), (1, 2), (2, 3), (3, 4), (4, 5), (5, 6), (6, 7), (7, 0)]

/-- The (source, target) positions of a decrypt round, in order (41_parve.md R105). -/
def decOrder : List (Fin 8 × Fin 8) := [(7, 0), (6, 7), (5, 6), (4, 5), (3, 4), (2, 3), (1, 2), (0, 1)]

/-- `EncRound(r)`: the eight steps in order, in place (41_parve.md R102). -/
def encRound (k : Block) (tab : Vector Byte 256) (b : Block) (r : Byte) : Block :=
  encOrder.foldl (encStep k tab r) b

/-- `DecRound(r)` (41_parve.md R105). -/
def decRound (k : Block) (tab : Vector Byte 256) (b : Block) (r : Byte) : Block :=
  decOrder.foldl (decStep k tab r) b

/-- The round numbers of encryption, r = 8 downto 1 (41_parve.md R103). -/
def encRounds : List Byte := [8#8, 7#8, 6#8, 5#8, 4#8, 3#8, 2#8, 1#8]

/-- The round numbers of decryption, r = 1 .. 8 (41_parve.md R106). -/
def decRounds : List Byte := [1#8, 2#8, 3#8, 4#8, 5#8, 6#8, 7#8, 8#8]

/-- `ParveEnc(K, S, B)` (41_parve.md R103). -/
def parveEnc (k : Block) (tab : Vector Byte 256) (b : Block) : Block := encRounds.foldl (encRound k tab) b

/-- `ParveDec(K, S, B)` (41_parve.md R106). -/
def parveDec (k : Block) (tab : Vector Byte 256) (b : Block) : Block := decRounds.foldl (decRound k tab) b

/-- Read the block at `ADDR`, transform it, write it back (41_parve.md R104, R107; 20_memory.md R59). -/
def transformBlock (f : Block → Block) (s : State) : State :=
  s.setMem (s.mem.writeBytes s.base (f (s.mem.readArray s.base 8)).toList)

/-- PENC (41_parve.md R104). -/
def execPenc (s : State) : Host.Outcome State Fault Refusal :=
  .next (s.attempt s.checkBlock (transformBlock (parveEnc s.key s.sbox)))

/-- PDEC (41_parve.md R107). -/
def execPdec (s : State) : Host.Outcome State Fault Refusal :=
  .next (s.attempt s.checkBlock (transformBlock (parveDec s.key s.sbox)))

end Sys2Proof.Machine
end

