-- ==== Sys2Proof/Machine/Cbcmac.lean ====
section
/-! DEFINITION. Parve-CBC-MAC and the command CBCMAC (42_cbcmac.md). -/

namespace Sys2Proof.Machine

/-- Bytewise XOR of two blocks (42_cbcmac.md R120). -/
def xorBlock (c m : Block) : Block := Vector.zipWith (· ^^^ ·) c m

/-- `CbcAbsorb(K, S, C, M)` (42_cbcmac.md R121). -/
def cbcAbsorb (k : Block) (tab : Vector Byte 256) (c m : Block) : Block := parveEnc k tab (xorBlock c m)

/-- `CbcMacFrom(K, S, C0, data, n)`, the data as its n blocks in ascending order (42_cbcmac.md R121). -/
def cbcMacFrom (k : Block) (tab : Vector Byte 256) (c : Block) (blocks : List Block) : Block :=
  blocks.foldl (cbcAbsorb k tab) c

/-- The zero initial value (42_cbcmac.md R120). -/
def zeroBlock : Block := Vector.replicate 8 0#8

/-- `ParveCBCMAC(K, S, data, n)` (42_cbcmac.md R121). -/
def parveCbcMac (k : Block) (tab : Vector Byte 256) (blocks : List Block) : Block :=
  cbcMacFrom k tab zeroBlock blocks

/-- The high half of the 64-bit result, `BE32(C[0..3])` (42_cbcmac.md R123). -/
def blockHi (b : Block) : Word := be32 b[0] b[1] b[2] b[3]

/-- The low half of the 64-bit result, `BE32(C[4..7])` (42_cbcmac.md R123). -/
def blockLo (b : Block) : Word := be32 b[4] b[5] b[6] b[7]

/-- Deliver a CBC-MAC and set `RV` (42_cbcmac.md R122). -/
def deliverBlock (c : Block) (s : State) : State :=
  (s.setResult (blockHi c) (blockLo c)).setStatus s.status.resultReady

/-- The effect of an accepted CBCMAC: the MAC of the `LEN/8` blocks at `ADDR` (42_cbcmac.md R122). -/
def macBuffer (s : State) : State :=
  deliverBlock (parveCbcMac s.key s.sbox (s.mem.readBlocks s.base (s.bytes / 8))) s

/-- CBCMAC (42_cbcmac.md R122). -/
def execCbcmac (s : State) : Host.Outcome State Fault Refusal :=
  .next (s.attempt s.checkCbcmac macBuffer)

end Sys2Proof.Machine
end

