-- ==== Sys2Proof/Machine/Csmod.lean ====
section
/-! DEFINITION. The modular chain-and-sum MAC and the command CSMOD (44_csmod.md). The body of the inner loop is the
spec's decision D15 (entry 10); it stands in `csmodPair` alone, as R155 asks. -/

namespace Sys2Proof.Machine

/-- The constants of one CSMOD: A and B reduced, C, D and E as written (44_csmod.md R151). -/
structure CsmodKeys where
  A : Nat
  B : Nat
  C : Nat
  D : Nat
  E : Nat
  deriving DecidableEq, Repr

/-- The two accumulators (44_csmod.md R150). -/
structure CsmodAcc where
  mac : Nat
  sum : Nat
  deriving DecidableEq, Repr

/-- The constants read from the operand registers (44_csmod.md R151). -/
def csmodKeys (s : State) : CsmodKeys where
  A := red s.seedHi.toNat
  B := red s.seedLo.toNat
  C := s.kc.toNat
  D := s.kd.toNat
  E := s.ke.toNat

/-- A data word with its high bit dropped (44_csmod.md R153). -/
def dataWord (w : Word) : Nat := (w &&& 0x7FFFFFFF#32).toNat

/-- One pair of data words: the replaceable loop body (44_csmod.md R154, R155; entry 10). -/
def csmodPair (c : CsmodKeys) (acc : CsmodAcc) (wEven wOdd : Nat) : CsmodAcc :=
  let x := red (c.E * wEven)
  let mac1 := red (red (c.A * (acc.mac + x)) + c.B)
  let sum1 := red (acc.sum + mac1)
  let mac2 := red (red (c.C * (mac1 + wOdd)) + c.D)
  let sum2 := red (sum1 + mac2)
  { mac := mac2, sum := sum2 }

/-- The loop over the pairs of words, from `mac` = `sum` = 0 (44_csmod.md R154). -/
def csmodLoop (c : CsmodKeys) (pairs : List (Word × Word)) : CsmodAcc :=
  pairs.foldl (fun acc p => csmodPair c acc (dataWord p.1) (dataWord p.2)) { mac := 0, sum := 0 }

/-- The finalization: B once into `mac`, D once into `sum` (44_csmod.md R157). -/
def csmodFinish (c : CsmodKeys) (acc : CsmodAcc) : CsmodAcc :=
  { mac := red (acc.mac + c.B), sum := red (acc.sum + c.D) }

/-- `CS64_Modular` on the pairs of words of a buffer (44_csmod.md R154). -/
def csmodMac (c : CsmodKeys) (pairs : List (Word × Word)) : CsmodAcc := csmodFinish c (csmodLoop c pairs)

/-- Deliver the MAC, `sum` high and `mac` low, and set `RV` (44_csmod.md R154, R158). -/
def deliverAcc (acc : CsmodAcc) (s : State) : State :=
  (s.setResult (BitVec.ofNat 32 acc.sum) (BitVec.ofNat 32 acc.mac)).setStatus s.status.resultReady

/-- The effect of an accepted CSMOD: the MAC of the `LEN/8` pairs of words at `ADDR` (44_csmod.md R154). -/
def chainSum (s : State) : State :=
  deliverAcc (csmodMac (csmodKeys s) (s.mem.readPairs s.base (s.bytes / 8))) s

/-- CSMOD (44_csmod.md R154). -/
def execCsmod (s : State) : Host.Outcome State Fault Refusal :=
  .next (s.attempt s.checkCsmod chainSum)

end Sys2Proof.Machine
end

