-- ==== Sys2Proof/Machine/Setup.lean ====
section
/-! DEFINITION. The setup commands LDKEY and LDSBOX (40_setup.md). -/

namespace Sys2Proof.Machine

/-- The effect of an accepted LDKEY: copy by value, then `KV <- 1` (40_setup.md R90, R91). -/
def loadKey (s : State) : State :=
  (s.setKey (s.mem.readArray s.base 8)).setStatus s.status.keyLoaded

/-- LDKEY (40_setup.md R91). -/
def execLdkey (s : State) : Host.Outcome State Fault Refusal :=
  .next (s.attempt (s.checkFixed 8) loadKey)

/-- The effect of an accepted LDSBOX: copy by value, then `SV <- 1` (40_setup.md R90, R92). -/
def loadSbox (s : State) : State :=
  (s.setSbox (s.mem.readArray s.base 256)).setStatus s.status.sboxLoaded

/-- LDSBOX (40_setup.md R92). -/
def execLdsbox (s : State) : Host.Outcome State Fault Refusal :=
  .next (s.attempt (s.checkFixed 256) loadSbox)

end Sys2Proof.Machine
end

