-- ==== Sys2Proof/Machine/StreamCipher.lean ====
section
/-! DEFINITION. The BV4 stream cipher and the commands BV4KEY and BV4CRYPT (43_bv4.md). The key schedule and the RC4
output byte are the spec's rules R132 and R133, which it marks as general knowledge (entry 11). -/

namespace Sys2Proof.Machine

/-! ### Key schedule and warm-up -/

/-- `s[k] <- k` for k = 0 .. 255 (43_bv4.md R132). -/
def identityTable : Vector Byte 256 := Vector.ofFn fun k => BitVec.ofNat 8 k.val

/-- One schedule step on (s, j): `j <- j + s[k] + key[k mod 8]`, then `swap(s[k], s[j])` (43_bv4.md R132, R136). -/
def scheduleStep (key : Vector Byte 8) (sj : Vector Byte 256 × Byte) (k : Byte) : Vector Byte 256 × Byte :=
  let j := sj.2 + byteAt sj.1 k + key[k.toNat % 8]
  (swapAt sj.1 k j, j)

/-- k = 0 .. 255 in order. -/
def scheduleIndices : List Byte := (List.range 256).map (BitVec.ofNat 8)

/-- The permutation the key schedule leaves (43_bv4.md R132). -/
def scheduleTable (key : Vector Byte 8) : Vector Byte 256 :=
  (scheduleIndices.foldl (scheduleStep key) (identityTable, 0#8)).1

/-- `KeySchedule(key)`: `s` scheduled, `i` and `j` zero; `h` and `y` are not written (43_bv4.md R132). -/
def keySchedule (key : Vector Byte 8) (b : Bv4) : Bv4 := { b with s := scheduleTable key, i := 0#8, j := 0#8 }

/-- The RC4 index update and swap: the first three lines of `Rc4Byte`, steps 1 and 2 of a word step
(43_bv4.md R133, R141). The `s[i]` added to `j` is the one before the swap. -/
def rc4Advance (b : Bv4) : Bv4 :=
  let i := b.i + 1#8
  let j := b.j + byteAt b.s i
  { b with s := swapAt b.s i j, i := i, j := j }

/-- `(s[i] + s[j]) mod 256`, read after the swap (43_bv4.md R133, R141 step 3). -/
def rc4Index (b : Bv4) : Byte := byteAt b.s b.i + byteAt b.s b.j

/-- n output bytes of `Rc4Byte` in order, and the state they leave (43_bv4.md R133, R134). -/
def rc4Bytes : Nat → Bv4 → List Byte × Bv4
  | 0, b => ([], b)
  | n + 1, b =>
    let b' := rc4Advance b
    let rest := rc4Bytes n b'
    (byteAt b'.s (rc4Index b') :: rest.1, rest.2)

/-- The big-endian word at position p of a byte list (00_scope.md R11). -/
def wordAt (o : List Byte) (p : Nat) : Word := be32 (o.getD p 0) (o.getD (p + 1) 0) (o.getD (p + 2) 0) (o.getD (p + 3) 0)

/-- `WarmUp()`: 132 output bytes, the first four into `h`, the next 32 groups of four into `y` (43_bv4.md R134). -/
def warmUp (b : Bv4) : Bv4 :=
  let o := rc4Bytes 132 b
  { o.2 with h := wordAt o.1 0, y := Vector.ofFn fun m => wordAt o.1 (4 + 4 * m.val) }

/-- The first half of an accepted BV4KEY, to phase KeyScheduled (43_bv4.md R131, R132; 10_state.md R36). -/
def scheduleKey (key : Vector Byte 8) (s : State) : State :=
  (s.setBv4 (keySchedule key s.bv4)).setStatus (s.status.inPhase .keyScheduled)

/-- The second half of an accepted BV4KEY, to phase WarmedUp (43_bv4.md R131, R134; 10_state.md R36). -/
def warmStream (s : State) : State :=
  (s.setBv4 (warmUp s.bv4)).setStatus (s.status.inPhase .warmedUp)

/-- The effect of an accepted BV4KEY (43_bv4.md R131). -/
def keyStream (s : State) : State := warmStream (scheduleKey (s.mem.readArray s.base 8) s)

/-- BV4KEY (43_bv4.md R131). -/
def execBv4key (s : State) : Host.Outcome State Fault Refusal :=
  .next (s.attempt (s.checkFixed 8) keyStream)

/-! ### The output stage -/

/-- Step 4's keystream word `h * u32(s[t])` modulo 2^32, t being step 3's index (43_bv4.md R140, R141). -/
def streamWord (b : Bv4) : Word := b.h * u32 (byteAt b.s (rc4Index b))

/-- `y[t mod 32]` (43_bv4.md R141). -/
def tableWord (b : Bv4) (t : Byte) : Word := b.y[t.toNat % 32]

/-- Steps 5 and 6: `h` and `s[t]` take up `y[t mod 32]`; `y` is not written (43_bv4.md R141, R142; entry 12). -/
def streamFeedback (b : Bv4) : Bv4 :=
  let t := rc4Index b
  { b with h := b.h + tableWord b t, s := setByteAt b.s t (byteAt b.s t + u8 (tableWord b t)) }

/-- The keystream word of the next word step (43_bv4.md R140). -/
def nextStreamWord (b : Bv4) : Word := streamWord (rc4Advance b)

/-- The BV4 state after the next word step (43_bv4.md R141, R142). -/
def nextStream (b : Bv4) : Bv4 := streamFeedback (rc4Advance b)

/-- `WordStep(a)`, and the phase that goes with it (43_bv4.md R139, R141). -/
def wordStep (a : Nat) (s : State) : State :=
  ((s.setMem (s.mem.write32 a (s.mem.read32 a ^^^ nextStreamWord s.bv4))).setBv4 (nextStream s.bv4)).setStatus
    (s.status.inPhase .streaming)

/-- n word steps over the consecutive words from a (43_bv4.md R139). -/
def wordSteps : Nat → Nat → State → State
  | 0, _, s => s
  | n + 1, a, s => wordSteps n (a + 4) (wordStep a s)

/-- The effect of an accepted BV4CRYPT: `LEN/4` word steps from `ADDR` (43_bv4.md R139). -/
def cryptBuffer (s : State) : State := wordSteps (s.bytes / 4) s.base s

/-- BV4CRYPT (43_bv4.md R139). -/
def execBv4crypt (s : State) : Host.Outcome State Fault Refusal :=
  .next (s.attempt s.checkCrypt cryptBuffer)

end Sys2Proof.Machine
end

