-- ==== Sys2Proof/Machine/Dispatch.lean ====
section
/-! DEFINITION. The meaning of each command, one arm per constructor of Instr. -/

namespace Sys2Proof.Machine

def exec (i : Instr) (s : State) : Host.Outcome State Fault Refusal :=
  match i with
  | .ldkey => Sys2Proof.Machine.execLdkey s
  | .ldsbox => Sys2Proof.Machine.execLdsbox s
  | .penc => Sys2Proof.Machine.execPenc s
  | .pdec => Sys2Proof.Machine.execPdec s
  | .cbcmac => Sys2Proof.Machine.execCbcmac s
  | .bv4key => Sys2Proof.Machine.execBv4key s
  | .bv4crypt => Sys2Proof.Machine.execBv4crypt s
  | .csmod => Sys2Proof.Machine.execCsmod s

end Sys2Proof.Machine
end

