-- ==== Sys2Proof/Machine/HostMoves.lean ====
section
/-! DEFINITION. The host's moves (10_state.md R20, R22; 20_memory.md R50; 30_encoding.md R71, R82;
70_reset_and_hazards.md R190) and the pseudo-instructions built from them (30_encoding.md R83). -/

namespace Sys2Proof.Machine

/-- `WR 0, w`: the write issues the command word w (30_encoding.md R71). A word that is no command is refused by the
MACHINE with ILLEGAL_COMMAND and changes nothing else (R79, 60_exceptions.md R173). `CMD` holds w (entry 3). -/
def issueWord (w : Word) (s : State) : Host.Outcome State Fault Refusal :=
  match decode w with
  | .ok i => exec i (s.setCmd w)
  | .error _ => .next ((s.setCmd w).refuse .illegalCommand)

/-- `WR idx, v` (10_state.md R22, R24). -/
def moveWrite (idx : Nat) (v : Word) (s : State) : Host.Outcome State Fault Refusal :=
  if idx = 0 then issueWord v s
  else
    match s.writeRegister idx v with
    | some t => .next t
    | none => .refused (.undefinedRegisterWrite idx)

/-- `RD idx`: returns the value, changes nothing (10_state.md R22). -/
def moveRead (idx : Nat) (s : State) : Host.Outcome State Fault Refusal :=
  match s.readRegister idx with
  | some v => .next (s.answer (.word v))
  | none => .refused (.undefinedRegisterRead idx)

/-- `MEMWR a, bs` (20_memory.md R50, 30_encoding.md R82; entry 13). -/
def moveMemWrite (a : Nat) (bs : List Byte) (s : State) : Host.Outcome State Fault Refusal :=
  if hostSpan s.memSize a bs.length then .next (s.setMem (s.mem.writeBytes a bs))
  else .refused (.memoryWriteOutside a)

/-- `MEMRD a, n` (20_memory.md R50, 30_encoding.md R82; entry 13). -/
def moveMemRead (a n : Nat) (s : State) : Host.Outcome State Fault Refusal :=
  if hostSpan s.memSize a n then .next (s.answer (.bytes (s.mem.readBytes a n)))
  else .refused (.memoryReadOutside a)

/-- The BV4 registers drawn by `Reset` number n (10_state.md R41; entry 8). -/
def drawnBv4 (n : Nat) : Bv4 where
  s := Vector.ofFn fun k => Config.resetPerm n k.val
  i := Config.resetIndexI n
  j := Config.resetIndexJ n
  h := Config.resetScalar n
  y := Vector.ofFn fun m => Config.resetTable n m.val

/-- `Reset` (10_state.md R41, 70_reset_and_hazards.md R190): `STATUS` = 0, memory unchanged, every other register the
table names a free value, drawn at this `Reset` and fixed until written (entry 8). -/
def resetCore (s : State) : State :=
  { s with
    status := Status.cleared
    addr := Config.resetRegister s.resets 2
    len := Config.resetRegister s.resets 3
    seedHi := Config.resetRegister s.resets 4
    seedLo := Config.resetRegister s.resets 5
    kc := Config.resetRegister s.resets 6
    kd := Config.resetRegister s.resets 7
    ke := Config.resetRegister s.resets 8
    resHi := Config.resetRegister s.resets 9
    resLo := Config.resetRegister s.resets 10
    key := Vector.ofFn fun i => Config.resetKey s.resets i.val
    sbox := Vector.ofFn fun i => Config.resetSbox s.resets i.val
    bv4 := drawnBv4 s.resets
    resets := s.resets + 1 }

/-- One move of the host (30_encoding.md R82). A move outside the move set is refused by the MODEL, by name
(93_implementation_defined.md U9; entry 9). -/
def performMove (m : HostMove) (s : State) : Host.Outcome State Fault Refusal :=
  match m with
  | .wr idx v => moveWrite idx v s
  | .rd idx => moveRead idx s
  | .memwr a bs => moveMemWrite a bs s
  | .memrd a n => moveMemRead a n s
  | .reset => .next (resetCore s)

/-! ### Host-script lines (30_encoding.md R82, R83) -/

/-- A mnemonic: `WR CMD, <command word>` (30_encoding.md R82). -/
def scriptCommand (i : Instr) : List HostMove := [.wr 0 (encode i)]

/-- `SETBUF a, n` (30_encoding.md R83). -/
def scriptSetBuf (a n : Word) : List HostMove := [.wr 2 a, .wr 3 n]

/-- `SETSEED v` (30_encoding.md R83). -/
def scriptSetSeed (v : BitVec 64) : List HostMove := [.wr 4 (v.extractLsb' 32 32), .wr 5 (v.extractLsb' 0 32)]

/-- `SETKEYS c, d, e` (30_encoding.md R83). -/
def scriptSetKeys (c d e : Word) : List HostMove := [.wr 6 c, .wr 7 d, .wr 8 e]

/-- `LDKEY@ a`, `LDSBOX@ a`, `PENC@ a`, `PDEC@ a`, `BV4KEY@ a` (30_encoding.md R83). -/
def scriptAt (i : Instr) (a : Word) : List HostMove := .wr 2 a :: scriptCommand i

/-- `CBCMAC@ a, n`, `BV4CRYPT@ a, n`, `CSMOD@ a, n` (30_encoding.md R83). -/
def scriptOver (i : Instr) (a n : Word) : List HostMove := scriptSetBuf a n ++ scriptCommand i

/-- `SEEDFROMRES`: the host writes back what it reads, so its moves depend on the state they start in
(30_encoding.md R83; entry 19). -/
def scriptSeedFromRes (s : State) : List HostMove := [.rd 9, .rd 10, .wr 4 s.resHi, .wr 5 s.resLo]

end Sys2Proof.Machine
end

