-- ==== Sys2Proof/Machine/Step.lean ====
section
/-! DEFINITION. One step of the machine: the host's next move (10_state.md R20, 20_memory.md R62; entry 6). -/

namespace Sys2Proof.Machine

/-- The next move in the host's order, whole. With no move to make the core does nothing until the host issues a
command (70_reset_and_hazards.md R190). -/
def step (s : State) : Host.Outcome State Fault Refusal :=
  match s.pending with
  | [] => .next s
  | m :: rest => performMove m (s.setPending rest)

/-- s with the command word w (its low nbits bits) as the host's very next move, `WR CMD, w` (30_encoding.md R71). It
stands for the outside world issuing a command (entry 6). -/
def State.withFetchWord (s : State) (nbits w : Nat) : State :=
  s.setPending (.wr 0 (BitVec.ofNat 32 (w % 2 ^ nbits)) :: s.pending)

end Sys2Proof.Machine
end

