-- ==== Sys2Proof/Safety.lean ====
section
/-! DEFINITION. The terms claims use: the invariant of the machine, legal host scripts and runs that go on, and the
bytes of memory a command may touch. -/

namespace Sys2Proof.Machine

/-- Every byte value stands in exactly one cell: the table is a permutation of 0 .. 255 (10_state.md R29). -/
def isPermutation (tab : Vector Byte 256) : Prop := Function.Bijective (byteAt tab)

/-- What holds between any two moves of the host.
* `memWf`: memory is in its canonical form, which is the model's (entry 4).
* `memBelow`: every listed address is in `0 .. MEMSIZE-1` (20_memory.md R50).
* `errCode`: `ECODE` is 0 exactly when `ERR` is 0 (10_state.md R23).
* `phaseSettled`: `BV4PH` is never KeyScheduled between commands (10_state.md R36; entry 20).
* `warmIndex`, `warmTable`: in phase WarmedUp `i` = 132 and `s` is a permutation (10_state.md R29, 43_bv4.md R134, on
  the spec's general-knowledge RC4 text, entry 11); in phase Streaming it need not be one (R142). -/
structure State.Inv (s : State) : Prop where
  memWf : s.mem.wf
  memBelow : ∀ c ∈ s.mem, c.1 < s.memSize
  errCode : s.status.err = false ↔ s.status.ecode = .none
  phaseSettled : s.status.bv4ph ≠ .keyScheduled
  warmIndex : s.status.bv4ph = .warmedUp → s.bv4.i = 132#8
  warmTable : s.status.bv4ph = .warmedUp → isPermutation s.bv4.s

/-- Every move still to be made is in the host's move set (10_state.md R22, 20_memory.md R50). -/
def State.legalScript (s : State) : Prop := ∀ m ∈ s.pending, m.wellFormed s.memSize = true

/-- k steps from s, stopping at the first that answers no next state. It is `Host.Core.run` of the machine
(Laws/Run.lean, `runSteps_eq_coreRun`). -/
def runSteps : Nat → State → Host.Outcome State Fault Refusal
  | 0, s => .next s
  | k + 1, s =>
    match step s with
    | .next t => runSteps k t
    | .fault r => .fault r
    | .refused r => .refused r

/-- However many steps are run, the machine answers a next state: it neither faults nor is a move refused. -/
def State.runsOn (s : State) : Prop := ∀ k, ∃ t, runSteps k s = .next t

/-- The number of bytes of a command's operand (20_memory.md R55, R56). -/
def operandBytes (i : Instr) (s : State) : Nat :=
  match i with
  | .ldkey => 8
  | .ldsbox => 256
  | .penc => 8
  | .pdec => 8
  | .cbcmac => s.len.toNat
  | .bv4key => 8
  | .bv4crypt => s.len.toNat
  | .csmod => s.len.toNat

/-- Address x lies in the operand `ADDR .. ADDR + nbytes - 1` of a command (20_memory.md R56). -/
def inOperand (i : Instr) (s : State) (x : Nat) : Prop :=
  s.addr.toNat ≤ x ∧ x < s.addr.toNat + operandBytes i s

/-- The checks of the table of 60_exceptions.md R173, all passed: input, length, range (20_memory.md R55, R57). -/
def passesChecks (i : Instr) (s : State) : Prop :=
  match i with
  | .ldkey => s.addr.toNat + 8 ≤ s.memSize
  | .ldsbox => s.addr.toNat + 256 ≤ s.memSize
  | .penc => (s.status.kv = true ∧ s.status.sv = true) ∧ s.addr.toNat + 8 ≤ s.memSize
  | .pdec => (s.status.kv = true ∧ s.status.sv = true) ∧ s.addr.toNat + 8 ≤ s.memSize
  | .cbcmac =>
    (s.status.kv = true ∧ s.status.sv = true) ∧ (8 ≤ s.len.toNat ∧ s.len.toNat % 8 = 0) ∧
      s.addr.toNat + s.len.toNat ≤ s.memSize
  | .bv4key => s.addr.toNat + 8 ≤ s.memSize
  | .bv4crypt =>
    (s.status.bv4ph = .warmedUp ∨ s.status.bv4ph = .streaming) ∧ s.len.toNat % 4 = 0 ∧
      s.addr.toNat + s.len.toNat ≤ s.memSize
  | .csmod => (8 ≤ s.len.toNat ∧ s.len.toNat % 8 = 0) ∧ s.addr.toNat + s.len.toNat ≤ s.memSize

end Sys2Proof.Machine
end

