-- ==== Sys2Proof/Certificates/Slice0/Obligations.lean ====
section
/-! DEFINITION. The statements about the CSParve64 CORE that the provers are to settle. Each formalises the rule of the
spec its docstring names; where a clause is the model's own choice the docstring names the log entry. -/

open Sys2Proof Sys2Proof.Machine

/-! ### Command words -/

/-- 30_encoding.md R74: a word is the command of a row exactly when `w AND 0xFFFFFFFF` is the row's command word. -/
def Obligations.CommandWordsMatchTheOpcodeMap : Prop :=
  ∀ w : Word,
    (decode w = .ok .ldkey ↔ w &&& 0xFFFFFFFF#32 = 0x00000001#32) ∧
    (decode w = .ok .ldsbox ↔ w &&& 0xFFFFFFFF#32 = 0x00000002#32) ∧
    (decode w = .ok .penc ↔ w &&& 0xFFFFFFFF#32 = 0x00000010#32) ∧
    (decode w = .ok .pdec ↔ w &&& 0xFFFFFFFF#32 = 0x00000011#32) ∧
    (decode w = .ok .cbcmac ↔ w &&& 0xFFFFFFFF#32 = 0x00000012#32) ∧
    (decode w = .ok .bv4key ↔ w &&& 0xFFFFFFFF#32 = 0x00000020#32) ∧
    (decode w = .ok .bv4crypt ↔ w &&& 0xFFFFFFFF#32 = 0x00000021#32) ∧
    (decode w = .ok .csmod ↔ w &&& 0xFFFFFFFF#32 = 0x00000030#32)

/-- Sanity, 30_encoding.md R81 and 95_test_vectors.md RF1, RF1b: words written out bit by bit from the opcode map
decode to their commands, and five words that are no command do not decode. -/
def Obligations.SampleWordsDecode : Prop :=
  decode 0b00000000000000000000000000000001#32 = .ok .ldkey ∧
  decode 0b00000000000000000000000000000010#32 = .ok .ldsbox ∧
  decode 0b00000000000000000000000000010000#32 = .ok .penc ∧
  decode 0b00000000000000000000000000010001#32 = .ok .pdec ∧
  decode 0b00000000000000000000000000010010#32 = .ok .cbcmac ∧
  decode 0b00000000000000000000000000100000#32 = .ok .bv4key ∧
  decode 0b00000000000000000000000000100001#32 = .ok .bv4crypt ∧
  decode 0b00000000000000000000000000110000#32 = .ok .csmod ∧
  decode 0x00000000#32 = .error .unknownOpcode ∧
  decode 0x00000013#32 = .error .unknownOpcode ∧
  decode 0x000000FF#32 = .error .unknownOpcode ∧
  decode 0x00000110#32 = .error .reservedNotZero ∧
  decode 0x80000010#32 = .error .reservedNotZero

/-- 30_encoding.md R81: encode is the inverse of decode. Every well-formed command's word decodes to it, and a word
that decodes to a command is that command's word, so no bit of a word is dropped. -/
def Obligations.DecodeAndEncodeAreInverse : Prop :=
  ∀ (i : Instr) (w : Word), i.wellFormed = true → (decode w = .ok i ↔ encode i = w)

/-- 30_encoding.md R79, 60_exceptions.md R172, R173: the move `WR CMD, w` with a word that is none of the eight gives
`ERR` = 1, `ECODE` = ILLEGAL_COMMAND, and changes nothing else (but `CMD` and the list of moves, entries 3 and 6). -/
def Obligations.IllegalWordIsRefused : Prop :=
  ∀ (s : State) (w : Word) (rest : List HostMove), s.pending = .wr 0 w :: rest →
    w ∉ [0x01#32, 0x02#32, 0x10#32, 0x11#32, 0x12#32, 0x20#32, 0x21#32, 0x30#32] →
    step s = .next { s with
      pending := rest, cmd := w, status := { s.status with err := true, ecode := .illegalCommand } }

/-! ### Steps -/

/-- 30_encoding.md R71 in the model's framing (entries 3 and 6): when the host's next move writes to `CMD` a word that
decodes to i, the step is `exec i` on the state with the move taken from the list and the word in `CMD`. -/
def Obligations.StepRunsTheDecodedCommand : Prop :=
  ∀ (s : State) (w : Word) (i : Instr) (rest : List HostMove), s.pending = .wr 0 w :: rest → decode w = .ok i →
    step s = exec i { s with pending := rest, cmd := w }

/-- 70_reset_and_hazards.md R190: the core does nothing until the host issues a command (the list of moves is the
model's, entry 6). -/
def Obligations.CoreIdlesWithoutAMove : Prop :=
  ∀ s : State, s.pending = [] → step s = .next s

/-- 10_state.md R22, R24: `WR idx, v` to a read-write register stores v, any v, and has no other effect. -/
def Obligations.HostWriteStoresOneRegister : Prop :=
  ∀ (s : State) (v : Word) (rest : List HostMove),
    (s.pending = .wr 2 v :: rest → step s = .next { s with pending := rest, addr := v }) ∧
    (s.pending = .wr 3 v :: rest → step s = .next { s with pending := rest, len := v }) ∧
    (s.pending = .wr 4 v :: rest → step s = .next { s with pending := rest, seedHi := v }) ∧
    (s.pending = .wr 5 v :: rest → step s = .next { s with pending := rest, seedLo := v }) ∧
    (s.pending = .wr 6 v :: rest → step s = .next { s with pending := rest, kc := v }) ∧
    (s.pending = .wr 7 v :: rest → step s = .next { s with pending := rest, kd := v }) ∧
    (s.pending = .wr 8 v :: rest → step s = .next { s with pending := rest, ke := v })

/-- 10_state.md R22: `RD idx` of a readable register returns its value (to the model's list of answers, entry 7) and
has no effect on any other state. -/
def Obligations.HostReadReturnsTheRegister : Prop :=
  ∀ (s : State) (idx : Nat) (v : Word) (rest : List HostMove), s.pending = .rd idx :: rest →
    (idx, v) ∈ [(1, s.status.toWord), (2, s.addr), (3, s.len), (4, s.seedHi), (5, s.seedLo), (6, s.kc), (7, s.kd),
      (8, s.ke), (9, s.resHi), (10, s.resLo)] →
    step s = .next { s with pending := rest, answers := .word v :: s.answers }

/-- 10_state.md R24: every 32-bit value is legal to write to an operand register and reads back as written. -/
def Obligations.OperandRegisterReadsBackAsWritten : Prop :=
  ∀ (s : State) (idx : Nat) (v : Word) (rest : List HostMove), 2 ≤ idx → idx ≤ 8 →
    s.pending = .wr idx v :: .rd idx :: rest →
    ∃ t, runSteps 2 s = .next t ∧ t.answers = .word v :: s.answers ∧ t.pending = rest

/-- 10_state.md R22, 93_implementation_defined.md U9: a write to `STATUS`, `RES_HI`, `RES_LO` or an index above 10, and
a read of `CMD` or an index above 10, are given no meaning, each by name (entry 9). -/
def Obligations.UndefinedRegisterMovesAreRefused : Prop :=
  ∀ (s : State) (idx : Nat) (v : Word) (rest : List HostMove),
    (s.pending = .wr idx v :: rest → idx = 1 ∨ 9 ≤ idx → step s = .refused (.undefinedRegisterWrite idx)) ∧
    (s.pending = .rd idx :: rest → idx = 0 ∨ 11 ≤ idx → step s = .refused (.undefinedRegisterRead idx))

/-- 20_memory.md R50, 30_encoding.md R82: `MEMWR a, b0 b1 ...` inside `MEM` writes the bytes at consecutive addresses;
every other byte and everything else in the core, the loaded keys among it (R63), is unchanged (entries 6, 13). -/
def Obligations.HostMemoryWriteStores : Prop :=
  ∀ (s : State) (a : Nat) (bs : List Byte) (rest : List HostMove), s.mem.wf → s.pending = .memwr a bs :: rest →
    a + bs.length ≤ s.memSize →
    ∃ t, step s = .next t ∧ (∀ (k : Nat) (h : k < bs.length), Memory.read t.mem (a + k) = bs[k]) ∧
      (∀ x, x < a ∨ a + bs.length ≤ x → Memory.read t.mem x = Memory.read s.mem x) ∧
      { t with mem := s.mem } = { s with pending := rest }

/-- 20_memory.md R50, R58, 30_encoding.md R82: `MEMRD a, n` inside `MEM` returns the n bytes from a, lowest address
first, and changes nothing (entries 6, 7, 13). -/
def Obligations.HostMemoryReadReturnsTheBytes : Prop :=
  ∀ (s : State) (a n : Nat) (rest : List HostMove), s.pending = .memrd a n :: rest → a + n ≤ s.memSize →
    step s = .next { s with
      pending := rest, answers := .bytes ((List.range n).map fun k => Memory.read s.mem (a + k)) :: s.answers }

/-- 20_memory.md R50, 93_implementation_defined.md U9: a host access to a byte at or above `MEMSIZE` is given no
meaning, by name (entries 9, 13). -/
def Obligations.HostMemoryAccessOutsideIsRefused : Prop :=
  ∀ (s : State) (a n : Nat) (bs : List Byte) (rest : List HostMove),
    (s.pending = .memwr a bs :: rest → bs ≠ [] → s.memSize < a + bs.length →
      step s = .refused (.memoryWriteOutside a)) ∧
    (s.pending = .memrd a n :: rest → n ≠ 0 → s.memSize < a + n → step s = .refused (.memoryReadOutside a))

/-- 70_reset_and_hazards.md R190, R191, 10_state.md R41: the `Reset` move makes `STATUS` 0 and leaves `MEM` as it was;
after it the commands that need a key, an S-box or a stream are refused with MISSING_INPUT. It says nothing of the
other registers: it holds for every value they draw (entry 8). That the size of memory is kept (entry 5), that the move
leaves the list of moves (entry 6) and that the list of answers is kept (entry 7) are the model's choices. -/
def Obligations.ResetMoveClearsStatusAndKeepsMemory : Prop :=
  ∀ (s : State) (rest : List HostMove), s.pending = .reset :: rest →
    ∃ t, step s = .next t ∧ t.status.toWord = 0#32 ∧ t.mem = s.mem ∧ t.memLast = s.memLast ∧ t.pending = rest ∧
      t.answers = s.answers ∧
      ∀ i ∈ [Instr.penc, .pdec, .cbcmac, .bv4crypt],
        exec i t = .next { t with status := { t.status with err := true, ecode := .missingInput } }

/-- 30_encoding.md R83: the lines `<cmd>@ a` and `<cmd>@ a, n` run as their expansions, two and three moves ending in
the command on the operands they set. The list of moves (entry 6) and that `CMD` holds the word written (entry 3) are
the model's choices. -/
def Obligations.CommandLinesRunAsTheirExpansions : Prop :=
  ∀ (s : State) (i : Instr) (a n : Word) (rest : List HostMove),
    (s.pending = scriptAt i a ++ rest →
      ∃ t, exec i { s with addr := a, cmd := encode i, pending := rest } = .next t ∧
        runSteps 2 s = .next t) ∧
    (s.pending = scriptOver i a n ++ rest →
      ∃ t, exec i { s with addr := a, len := n, cmd := encode i, pending := rest } = .next t ∧
        runSteps 3 s = .next t)

/-- 30_encoding.md R83: `SETSEED v`, `SETKEYS c, d, e` and `SEEDFROMRES` leave the seed and key registers as their
expansions say (entries 6, 7, 19). -/
def Obligations.OperandLinesRunAsTheirExpansions : Prop :=
  ∀ (s : State) (v : BitVec 64) (c d e : Word) (rest : List HostMove),
    (s.pending = scriptSetSeed v ++ rest →
      ∃ t, runSteps 2 s = .next t ∧ t.seedHi.toNat * 2 ^ 32 + t.seedLo.toNat = v.toNat ∧
        { t with seedHi := s.seedHi, seedLo := s.seedLo } = { s with pending := rest }) ∧
    (s.pending = scriptSetKeys c d e ++ rest →
      runSteps 3 s = .next { s with pending := rest, kc := c, kd := d, ke := e }) ∧
    (s.pending = scriptSeedFromRes s ++ rest →
      runSteps 4 s = .next { s with
        pending := rest, seedHi := s.resHi, seedLo := s.resLo
        answers := .word s.resLo :: .word s.resHi :: s.answers })

/-! ### The whole machine -/

/-- The state after reset meets the invariant, and `STATUS` reads 0 (10_state.md R41). That every byte of memory then
reads as `Memory.blankByte` is the model's choice (entry 4): R41 calls memory unspecified at power-up. -/
def Obligations.ResetStateMeetsTheInvariant : Prop :=
  State.reset.Inv ∧ State.reset.status.toWord = 0#32 ∧ ∀ a, Memory.read State.reset.mem a = Memory.blankByte

/-- Every step keeps the invariant: every listed address inside `MEM` (20_memory.md R50, R57), `ECODE` 0 exactly when
`ERR` is 0 (10_state.md R23), no KeyScheduled between commands (R36), and `i` = 132 with `s` a permutation in phase
WarmedUp (10_state.md R29, 43_bv4.md R134). It holds from every state that meets it, not only after reset. Not the
spec's plain words are: memory in its canonical form, the model's choice (entry 4); no KeyScheduled between two moves,
read from R36 by inference (entry 20); the two WarmedUp clauses, which rest on the spec's general-knowledge RC4 text
(entry 11), the permutation being an inference the spec marks as its own (R29). -/
def Obligations.StepKeepsTheInvariant : Prop :=
  ∀ s t : State, s.Inv → step s = .next t → t.Inv

/-- 60_exceptions.md R186, 93_implementation_defined.md section 1: a script of moves of the host's move set always
goes on; no command, no data and no operand ends a run. The list of moves is the model's choice (entry 6), as is what a
line of several bytes or of none needs to be in the move set (entry 13). -/
def Obligations.LegalScriptsRunOn : Prop :=
  ∀ s : State, s.legalScript → s.runsOn

/-- 60_exceptions.md R172: the effect of a refusal is `ERR` = 1, `ECODE` = the code, and nothing else. -/
def Obligations.RefusedCommandWritesErrAndEcodeOnly : Prop :=
  ∀ (i : Instr) (s t : State), exec i s = .next t → t.status.err = true →
    ∃ c ∈ [ECode.missingInput, .badLength, .badAddress],
      t = { s with status := { s.status with err := true, ecode := c } }

/-- 60_exceptions.md R174: a command that passes every check of R173 completes, with `ERR` = 0 and `ECODE` = 0; and
only such a command ends with `ERR` = 0. -/
def Obligations.CommandPassingItsChecksCompletes : Prop :=
  ∀ (i : Instr) (s : State),
    (passesChecks i s → ∃ t, exec i s = .next t ∧ t.status.err = false ∧ t.status.ecode = .none) ∧
    (¬ passesChecks i s → ∃ t, exec i s = .next t ∧ t.status.err = true ∧ t.status.ecode ≠ .none)

/-- 10_state.md R24: no command, accepted or refused, writes an operand register; nor does one write `CMD`, the size of
memory or the model's own fields (entries 3, 5, 6, 7, 8). -/
def Obligations.CommandsKeepTheOperandRegisters : Prop :=
  ∀ (i : Instr) (s t : State), exec i s = .next t →
    t.addr = s.addr ∧ t.len = s.len ∧ t.seedHi = s.seedHi ∧ t.seedLo = s.seedLo ∧ t.kc = s.kc ∧ t.kd = s.kd ∧
      t.ke = s.ke ∧ t.cmd = s.cmd ∧ t.memLast = s.memLast ∧ t.pending = s.pending ∧ t.answers = s.answers ∧
      t.resets = s.resets

/-- 10_state.md R26: no command but CBCMAC and CSMOD writes `RES_HI`, `RES_LO`, and a refused one of those does not. -/
def Obligations.OnlyMacCommandsWriteTheResult : Prop :=
  ∀ (i : Instr) (s t : State), exec i s = .next t → (i ≠ .cbcmac ∧ i ≠ .csmod) ∨ t.status.err = true →
    t.resHi = s.resHi ∧ t.resLo = s.resLo

/-- 10_state.md R27, R28: `K` is written only by LDKEY and `S` only by LDSBOX, and not by a refused one. -/
def Obligations.OnlyLoadsWriteKeyMaterial : Prop :=
  ∀ (i : Instr) (s t : State), exec i s = .next t →
    (i ≠ .ldkey ∨ t.status.err = true → t.key = s.key) ∧ (i ≠ .ldsbox ∨ t.status.err = true → t.sbox = s.sbox)

/-- 10_state.md R29: the BV4 registers are written only by BV4KEY and BV4CRYPT, `y` only by BV4KEY (43_bv4.md R142),
and none by a refused command. -/
def Obligations.OnlyBv4CommandsWriteTheStream : Prop :=
  ∀ (i : Instr) (s t : State), exec i s = .next t →
    ((i ≠ .bv4key ∧ i ≠ .bv4crypt) ∨ t.status.err = true → t.bv4 = s.bv4) ∧
    (i ≠ .bv4key ∨ t.status.err = true → t.bv4.y = s.bv4.y)

/-- 20_memory.md R56: a command writes no byte outside its operand `ADDR .. ADDR + nbytes - 1`, and LDKEY, LDSBOX,
CBCMAC, BV4KEY, CSMOD and every refused command write nothing. -/
def Obligations.StoresStayInsideTheOperand : Prop :=
  ∀ (i : Instr) (s t : State), exec i s = .next t →
    ((i ≠ .penc ∧ i ≠ .pdec ∧ i ≠ .bv4crypt) ∨ t.status.err = true → t.mem = s.mem) ∧
    (s.mem.wf → ∀ x, ¬ inOperand i s x → Memory.read t.mem x = Memory.read s.mem x)

/-- 10_state.md R23, R37: `KV`, `SV`, `RV` are set by an accepted LDKEY, LDSBOX, CBCMAC or CSMOD, and no command clears
one. -/
def Obligations.ValidFlagsFollowTheLoads : Prop :=
  ∀ (i : Instr) (s t : State), exec i s = .next t →
    t.status.kv = (s.status.kv || (decide (i = .ldkey) && !t.status.err)) ∧
    t.status.sv = (s.status.sv || (decide (i = .ldsbox) && !t.status.err)) ∧
    t.status.rv = (s.status.rv || ((decide (i = .cbcmac) || decide (i = .csmod)) && !t.status.err))

/-- 10_state.md R36: the phase after a command. -/
def Obligations.PhaseFollowsItsTransitions : Prop :=
  ∀ (i : Instr) (s t : State), exec i s = .next t →
    t.status.bv4ph =
      if t.status.err = true then s.status.bv4ph
      else if i = .bv4key then .warmedUp
      else if i = .bv4crypt ∧ 4 ≤ s.len.toNat then .streaming
      else s.status.bv4ph

/-- 10_state.md R23, R36, 60_exceptions.md R171: the layout of the `STATUS` word and the values of its fields; the
reserved bits read 0. -/
def Obligations.StatusWordLayout : Prop :=
  ∀ st : Status,
    st.toWord.getLsbD 0 = st.err ∧
    (st.toWord.extractLsb' 1 3).toNat =
      (match st.ecode with
        | .none => 0 | .illegalCommand => 1 | .missingInput => 2 | .badLength => 3 | .badAddress => 4) ∧
    st.toWord.getLsbD 4 = st.kv ∧ st.toWord.getLsbD 5 = st.sv ∧ st.toWord.getLsbD 6 = st.rv ∧
    st.toWord.getLsbD 7 = false ∧
    (st.toWord.extractLsb' 8 2).toNat =
      (match st.bv4ph with | .idle => 0 | .keyScheduled => 1 | .warmedUp => 2 | .streaming => 3) ∧
    st.toWord.extractLsb' 10 22 = 0#22

/-! ### Memory -/

/-- 20_memory.md R51: a word in memory is big-endian, at any address: its value from its four bytes, and a word read
back after it is written. -/
def Obligations.WordsInMemoryAreBigEndian : Prop :=
  ∀ (m : Memory) (a : Nat) (w : Word), m.wf →
    (Memory.read32 m a).toNat =
      (Memory.read m a).toNat * 2 ^ 24 + (Memory.read m (a + 1)).toNat * 2 ^ 16 +
        (Memory.read m (a + 2)).toNat * 2 ^ 8 + (Memory.read m (a + 3)).toNat ∧
    Memory.read32 (Memory.write32 m a w) a = w ∧
    ∀ x, x < a ∨ a + 4 ≤ x → Memory.read (Memory.write32 m a w) x = Memory.read m x

/-- The canonical form is canonical: two memories in it that read alike at every address are the same list (the form
is the model's, entry 4). -/
def Obligations.EqualReadsMeanEqualMemories : Prop :=
  ∀ m m' : Memory, m.wf → m'.wf → (∀ a, Memory.read m a = Memory.read m' a) → m = m'

/-! ### The setup commands -/

/-- 40_setup.md R91: LDKEY copies the eight bytes at `ADDR` into `K` and sets `KV`, or is refused with BAD_ADDRESS;
nothing else changes. -/
def Obligations.LdkeyLoadsTheKey : Prop :=
  ∀ s : State,
    (s.addr.toNat + 8 ≤ s.memSize →
      exec .ldkey s = .next { s with
        status := { s.status with err := false, ecode := .none, kv := true }
        key := Vector.ofFn fun i => Memory.read s.mem (s.addr.toNat + i.val) }) ∧
    (s.memSize < s.addr.toNat + 8 →
      exec .ldkey s = .next { s with status := { s.status with err := true, ecode := .badAddress } })

/-- 40_setup.md R92: LDSBOX copies the 256 bytes at `ADDR` into `S` and sets `SV`, or is refused with BAD_ADDRESS;
nothing else changes. -/
def Obligations.LdsboxLoadsTheSbox : Prop :=
  ∀ s : State,
    (s.addr.toNat + 256 ≤ s.memSize →
      exec .ldsbox s = .next { s with
        status := { s.status with err := false, ecode := .none, sv := true }
        sbox := Vector.ofFn fun i => Memory.read s.mem (s.addr.toNat + i.val) }) ∧
    (s.memSize < s.addr.toNat + 256 →
      exec .ldsbox s = .next { s with status := { s.status with err := true, ecode := .badAddress } })

/-! ### Parve -/

/-- 41_parve.md R102: one encrypt round, in place: `B[1]` from the old `B[0]`, each later byte from the one just
written, and `B[0]` last, from the new `B[7]`. -/
def Obligations.EncryptRoundChainsItsSteps : Prop :=
  ∀ (k b : Block) (tab : Vector Byte 256) (r : Byte),
    (encRound k tab b r)[1] = (b[1] + byteAt tab (k[0] + b[0] + r)).rotateLeft 1 ∧
    (∀ (i : Nat) (_ : 1 ≤ i) (h : i ≤ 6),
      (encRound k tab b r)[i + 1] = (b[i + 1] + byteAt tab (k[i] + (encRound k tab b r)[i] + r)).rotateLeft 1) ∧
    (encRound k tab b r)[0] = (b[0] + byteAt tab (k[7] + (encRound k tab b r)[7] + r)).rotateLeft 1

/-- 41_parve.md R105: a decrypt round undoes the encrypt round with the same number, and the other way round. -/
def Obligations.DecryptRoundUndoesEncryptRound : Prop :=
  ∀ (k b : Block) (tab : Vector Byte 256) (r : Byte),
    decRound k tab (encRound k tab b r) r = b ∧ encRound k tab (decRound k tab b r) r = b

/-- 41_parve.md R103, R106: encryption is rounds 8 down to 1, decryption rounds 1 up to 8. -/
def Obligations.ParveRunsItsRoundsInOrder : Prop :=
  ∀ (k b : Block) (tab : Vector Byte 256),
    (∃ x : Nat → Block, x 8 = b ∧ (∀ r, 1 ≤ r → r ≤ 8 → x (r - 1) = encRound k tab (x r) (BitVec.ofNat 8 r)) ∧
      parveEnc k tab b = x 0) ∧
    (∃ x : Nat → Block, x 0 = b ∧ (∀ r, 1 ≤ r → r ≤ 8 → x r = decRound k tab (x (r - 1)) (BitVec.ofNat 8 r)) ∧
      parveDec k tab b = x 8)

/-- 41_parve.md R108: decryption inverts encryption and encryption inverts decryption, for every key, every S-box,
permutation or not, and every block. -/
def Obligations.ParveDecryptInvertsEncrypt : Prop :=
  ∀ (k b : Block) (tab : Vector Byte 256),
    parveDec k tab (parveEnc k tab b) = b ∧ parveEnc k tab (parveDec k tab b) = b

/-- 41_parve.md R110 cases 1 and 2: under an all-zero S-box both directions leave every block, and under a constant
S-box the key has no effect. -/
def Obligations.ConstantSboxHidesTheKey : Prop :=
  ∀ (k k' b : Block) (c : Byte),
    parveEnc k (Vector.replicate 256 0#8) b = b ∧ parveDec k (Vector.replicate 256 0#8) b = b ∧
    parveEnc k (Vector.replicate 256 c) b = parveEnc k' (Vector.replicate 256 c) b ∧
    parveDec k (Vector.replicate 256 c) b = parveDec k' (Vector.replicate 256 c) b

/-- 41_parve.md R104: PENC encrypts the eight bytes at `ADDR` in place under the loaded `K` and `S`, or is refused with
the code of the first failing check; no other byte and no other state changes. -/
def Obligations.PencEncryptsTheBlockInPlace : Prop :=
  ∀ s : State,
    (s.mem.wf → s.status.kv = true → s.status.sv = true → s.addr.toNat + 8 ≤ s.memSize →
      ∃ t, exec .penc s = .next t ∧
        (∀ i : Fin 8, Memory.read t.mem (s.addr.toNat + i.val) =
          (parveEnc s.key s.sbox (Vector.ofFn fun j => Memory.read s.mem (s.addr.toNat + j.val)))[i]) ∧
        (∀ x, x < s.addr.toNat ∨ s.addr.toNat + 8 ≤ x → Memory.read t.mem x = Memory.read s.mem x) ∧
        { t with mem := s.mem } = { s with status := { s.status with err := false, ecode := .none } }) ∧
    (s.status.kv = false ∨ s.status.sv = false →
      exec .penc s = .next { s with status := { s.status with err := true, ecode := .missingInput } }) ∧
    (s.status.kv = true → s.status.sv = true → s.memSize < s.addr.toNat + 8 →
      exec .penc s = .next { s with status := { s.status with err := true, ecode := .badAddress } })

/-- 41_parve.md R107: PDEC decrypts the eight bytes at `ADDR` in place under the loaded `K` and `S`, or is refused with
the code of the first failing check; no other byte and no other state changes. -/
def Obligations.PdecDecryptsTheBlockInPlace : Prop :=
  ∀ s : State,
    (s.mem.wf → s.status.kv = true → s.status.sv = true → s.addr.toNat + 8 ≤ s.memSize →
      ∃ t, exec .pdec s = .next t ∧
        (∀ i : Fin 8, Memory.read t.mem (s.addr.toNat + i.val) =
          (parveDec s.key s.sbox (Vector.ofFn fun j => Memory.read s.mem (s.addr.toNat + j.val)))[i]) ∧
        (∀ x, x < s.addr.toNat ∨ s.addr.toNat + 8 ≤ x → Memory.read t.mem x = Memory.read s.mem x) ∧
        { t with mem := s.mem } = { s with status := { s.status with err := false, ecode := .none } }) ∧
    (s.status.kv = false ∨ s.status.sv = false →
      exec .pdec s = .next { s with status := { s.status with err := true, ecode := .missingInput } }) ∧
    (s.status.kv = true → s.status.sv = true → s.memSize < s.addr.toNat + 8 →
      exec .pdec s = .next { s with status := { s.status with err := true, ecode := .badAddress } })

/-- 41_parve.md R108 and 95_test_vectors.md T1, as commands: PENC then PDEC at the same `ADDR` under the same `K` and
`S` restores memory whole, and PDEC then PENC too. -/
def Obligations.PencAndPdecRestoreMemory : Prop :=
  ∀ s : State, s.mem.wf → s.status.kv = true → s.status.sv = true → s.addr.toNat + 8 ≤ s.memSize →
    (∃ t u, exec .penc s = .next t ∧ exec .pdec t = .next u ∧ u.mem = s.mem) ∧
    (∃ t u, exec .pdec s = .next t ∧ exec .penc t = .next u ∧ u.mem = s.mem)

/-! ### Parve-CBC-MAC -/

/-- 42_cbcmac.md R122: CBCMAC chains Parve over the `LEN/8` blocks at `ADDR` from a zero block, each absorbed bytewise
by XOR, and delivers the last block big-endian, or is refused with the code of the first failing check; nothing else
changes. -/
def Obligations.CbcmacChainsTheBlocks : Prop :=
  ∀ s : State,
    (s.status.kv = true → s.status.sv = true → 8 ≤ s.len.toNat → s.len.toNat % 8 = 0 →
      s.addr.toNat + s.len.toNat ≤ s.memSize →
      ∃ x : Nat → Block, (∀ k : Fin 8, (x 0)[k] = 0#8) ∧
        (∀ q < s.len.toNat / 8, x (q + 1) = parveEnc s.key s.sbox
          (Vector.ofFn fun k : Fin 8 => (x q)[k] ^^^ Memory.read s.mem (s.addr.toNat + 8 * q + k.val))) ∧
        exec .cbcmac s = .next { s with
          status := { s.status with err := false, ecode := .none, rv := true }
          resHi := (x (s.len.toNat / 8))[0] ++ (x (s.len.toNat / 8))[1] ++ (x (s.len.toNat / 8))[2] ++
            (x (s.len.toNat / 8))[3]
          resLo := (x (s.len.toNat / 8))[4] ++ (x (s.len.toNat / 8))[5] ++ (x (s.len.toNat / 8))[6] ++
            (x (s.len.toNat / 8))[7] }) ∧
    (s.status.kv = false ∨ s.status.sv = false →
      exec .cbcmac s = .next { s with status := { s.status with err := true, ecode := .missingInput } }) ∧
    (s.status.kv = true → s.status.sv = true → s.len.toNat < 8 ∨ s.len.toNat % 8 ≠ 0 →
      exec .cbcmac s = .next { s with status := { s.status with err := true, ecode := .badLength } }) ∧
    (s.status.kv = true → s.status.sv = true → 8 ≤ s.len.toNat → s.len.toNat % 8 = 0 →
      s.memSize < s.addr.toNat + s.len.toNat →
      exec .cbcmac s = .next { s with status := { s.status with err := true, ecode := .badAddress } })

/-- 42_cbcmac.md R124: the prefix law, over a buffer of n + k blocks in memory. -/
def Obligations.CbcMacOfABufferInTwoPieces : Prop :=
  ∀ (k : Block) (tab : Vector Byte 256) (m : Memory) (a n l : Nat),
    parveCbcMac k tab (Memory.readBlocks m a (n + l)) =
      cbcMacFrom k tab (parveCbcMac k tab (Memory.readBlocks m a n)) (Memory.readBlocks m (a + 8 * n) l)

/-- 42_cbcmac.md R126 cases 1 and 5: a one-block MAC is one encryption of the block, whatever the BV4 state and the
earlier results are. -/
def Obligations.OneBlockMacIsOneEncryption : Prop :=
  ∀ s : State, s.status.kv = true → s.status.sv = true → s.len = 8#32 → s.addr.toNat + 8 ≤ s.memSize →
    ∃ t, exec .cbcmac s = .next t ∧ t.status.err = false ∧
      t.resHi = blockHi (parveEnc s.key s.sbox (Vector.ofFn fun j => Memory.read s.mem (s.addr.toNat + j.val))) ∧
      t.resLo = blockLo (parveEnc s.key s.sbox (Vector.ofFn fun j => Memory.read s.mem (s.addr.toNat + j.val)))

/-! ### BV4 -/

/-- 43_bv4.md R132: the key schedule, as the sequence of tables T and indices J it goes through. -/
def Obligations.KeyScheduleFollowsItsRecurrence : Prop :=
  ∀ (key : Vector Byte 8) (b : Bv4),
    ∃ (T : Nat → Byte → Byte) (J : Nat → Byte), (∀ x, T 0 x = x) ∧ J 0 = 0#8 ∧
      (∀ k < 256, J (k + 1) = J k + T k (BitVec.ofNat 8 k) + key[k % 8] ∧
        ∀ x, T (k + 1) x = T k (Equiv.swap (BitVec.ofNat 8 k) (J (k + 1)) x)) ∧
      (∀ x, byteAt (keySchedule key b).s x = T 256 x) ∧
      (keySchedule key b).i = 0#8 ∧ (keySchedule key b).j = 0#8 ∧
      (keySchedule key b).h = b.h ∧ (keySchedule key b).y = b.y

/-- 43_bv4.md R133, R134: the warm-up as the sequences of tables T, indices I, J and output bytes o it goes through:
132 bytes, the first four into `h`, the others into `y`, big-endian. -/
def Obligations.WarmUpFollowsItsRecurrence : Prop :=
  ∀ b : Bv4,
    ∃ (T : Nat → Byte → Byte) (I J : Nat → Byte) (o : Nat → Byte),
      (∀ x, T 0 x = byteAt b.s x) ∧ I 0 = b.i ∧ J 0 = b.j ∧
      (∀ m < 132, I (m + 1) = I m + 1#8 ∧ J (m + 1) = J m + T m (I (m + 1)) ∧
        (∀ x, T (m + 1) x = T m (Equiv.swap (I (m + 1)) (J (m + 1)) x)) ∧
        o m = T (m + 1) (T (m + 1) (I (m + 1)) + T (m + 1) (J (m + 1)))) ∧
      (warmUp b).i = I 132 ∧ (warmUp b).j = J 132 ∧ (∀ x, byteAt (warmUp b).s x = T 132 x) ∧
      (warmUp b).h = o 0 ++ o 1 ++ o 2 ++ o 3 ∧
      ∀ m : Fin 32, (warmUp b).y[m] =
        o (4 + 4 * m.val) ++ o (5 + 4 * m.val) ++ o (6 + 4 * m.val) ++ o (7 + 4 * m.val)

/-- 10_state.md R29, 43_bv4.md R134: after the key schedule and the warm-up `s` is a permutation of 0 .. 255 and
`i` = 132, whatever the key and the earlier BV4 state. -/
def Obligations.KeyedStreamIsAPermutation : Prop :=
  ∀ (key : Vector Byte 8) (b : Bv4),
    isPermutation (keySchedule key b).s ∧ isPermutation (warmUp (keySchedule key b)).s ∧
      (warmUp (keySchedule key b)).i = 132#8

/-- 43_bv4.md R131: BV4KEY runs the key schedule over the eight bytes at `ADDR`, then the warm-up, and ends in phase
WarmedUp, or is refused with BAD_ADDRESS; nothing else changes. -/
def Obligations.Bv4keyKeysTheStream : Prop :=
  ∀ s : State,
    (s.addr.toNat + 8 ≤ s.memSize →
      exec .bv4key s = .next { s with
        status := { s.status with err := false, ecode := .none, bv4ph := .warmedUp }
        bv4 := warmUp (keySchedule (Vector.ofFn fun i => Memory.read s.mem (s.addr.toNat + i.val)) s.bv4) }) ∧
    (s.memSize < s.addr.toNat + 8 →
      exec .bv4key s = .next { s with status := { s.status with err := true, ecode := .badAddress } })

/-- 43_bv4.md R131: keying twice from the same eight bytes gives the same BV4 state, whatever stream was there: the
command reads no earlier BV4 state. -/
def Obligations.RekeyingForgetsTheOldStream : Prop :=
  ∀ s s' : State, s.addr.toNat + 8 ≤ s.memSize → s'.addr.toNat + 8 ≤ s'.memSize →
    (∀ i < 8, Memory.read s.mem (s.addr.toNat + i) = Memory.read s'.mem (s'.addr.toNat + i)) →
    ∃ t t', exec .bv4key s = .next t ∧ exec .bv4key s' = .next t' ∧ t.bv4 = t'.bv4 ∧
      t.status.bv4ph = t'.status.bv4ph

/-- 43_bv4.md R141, R142: one word step: the six steps of the output stage on (i, j, s, h), the word at a big-endian,
`y` read only; no other byte and no other state changes but the phase, which becomes Streaming (R139). T1 is `s` after
the swap, t the index of step 3. -/
def Obligations.WordStepFollowsTheOutputStage : Prop :=
  ∀ (a : Nat) (s u : State) (i j t : Byte) (T1 : Byte → Byte), s.mem.wf → u = wordStep a s →
    i = s.bv4.i + 1#8 → j = s.bv4.j + byteAt s.bv4.s i → (∀ x, T1 x = byteAt s.bv4.s (Equiv.swap i j x)) →
    t = T1 i + T1 j →
    u.bv4.i = i ∧ u.bv4.j = j ∧ u.bv4.y = s.bv4.y ∧
    Memory.read32 u.mem a = Memory.read32 s.mem a ^^^ (s.bv4.h * (T1 t).setWidth 32) ∧
    (∀ x, x < a ∨ a + 4 ≤ x → Memory.read u.mem x = Memory.read s.mem x) ∧
    u.bv4.h = s.bv4.h + s.bv4.y[t.toNat % 32] ∧
    (∀ x, byteAt u.bv4.s x = if x = t then T1 t + (s.bv4.y[t.toNat % 32]).setWidth 8 else T1 x) ∧
    { u with mem := s.mem, bv4 := s.bv4 } = { s with status := { s.status with bv4ph := .streaming } }

/-- 43_bv4.md R139: BV4CRYPT runs one word step per word of the buffer in ascending order: word n is XORed with the
keystream word of the BV4 state x n, which goes from word to word; or it is refused with the code of the first failing
check. No byte outside the buffer and no other state changes. -/
def Obligations.Bv4cryptXorsTheKeystream : Prop :=
  ∀ s : State,
    (s.mem.wf → s.status.bv4ph = .warmedUp ∨ s.status.bv4ph = .streaming → s.len.toNat % 4 = 0 →
      s.addr.toNat + s.len.toNat ≤ s.memSize →
      ∃ (x : Nat → Bv4) (t : State), x 0 = s.bv4 ∧ (∀ n < s.len.toNat / 4, x (n + 1) = nextStream (x n)) ∧
        exec .bv4crypt s = .next t ∧ t.bv4 = x (s.len.toNat / 4) ∧
        (∀ n < s.len.toNat / 4, Memory.read32 t.mem (s.addr.toNat + 4 * n) =
          Memory.read32 s.mem (s.addr.toNat + 4 * n) ^^^ nextStreamWord (x n)) ∧
        (∀ a, a < s.addr.toNat ∨ s.addr.toNat + s.len.toNat ≤ a → Memory.read t.mem a = Memory.read s.mem a) ∧
        { t with mem := s.mem, bv4 := s.bv4 } = { s with
          status := { s.status with
            err := false, ecode := .none, bv4ph := if s.len.toNat = 0 then s.status.bv4ph else .streaming } }) ∧
    (s.status.bv4ph ≠ .warmedUp → s.status.bv4ph ≠ .streaming →
      exec .bv4crypt s = .next { s with status := { s.status with err := true, ecode := .missingInput } }) ∧
    (s.status.bv4ph = .warmedUp ∨ s.status.bv4ph = .streaming → s.len.toNat % 4 ≠ 0 →
      exec .bv4crypt s = .next { s with status := { s.status with err := true, ecode := .badLength } }) ∧
    (s.status.bv4ph = .warmedUp ∨ s.status.bv4ph = .streaming → s.len.toNat % 4 = 0 →
      s.memSize < s.addr.toNat + s.len.toNat →
      exec .bv4crypt s = .next { s with status := { s.status with err := true, ecode := .badAddress } })

/-- 43_bv4.md R140: the keystream depends on the BV4 state alone. Two cores that differ in memory only end an accepted
BV4CRYPT in the same BV4 state, with the same words XORed into their buffers. -/
def Obligations.KeystreamIgnoresTheBuffer : Prop :=
  ∀ (s : State) (m : Memory), s.mem.wf → m.wf → passesChecks .bv4crypt s →
    ∃ t t', exec .bv4crypt s = .next t ∧ exec .bv4crypt { s with mem := m } = .next t' ∧ t.bv4 = t'.bv4 ∧
      ∀ n < s.len.toNat / 4,
        Memory.read32 t.mem (s.addr.toNat + 4 * n) ^^^ Memory.read32 s.mem (s.addr.toNat + 4 * n) =
          Memory.read32 t'.mem (s.addr.toNat + 4 * n) ^^^ Memory.read32 m (s.addr.toNat + 4 * n)

/-- 43_bv4.md R144: BV4CRYPT over n1 bytes and then, from where it stopped, over n2 more has the same effect on `MEM`,
the BV4 state and `STATUS` as one over n1 + n2. -/
def Obligations.StreamMayBeSplit : Prop :=
  ∀ (s : State) (n1 n2 : Word), passesChecks .bv4crypt s → s.len.toNat = n1.toNat + n2.toNat → n1.toNat % 4 = 0 →
    ∃ t v u, exec .bv4crypt s = .next t ∧ exec .bv4crypt { s with len := n1 } = .next v ∧
      exec .bv4crypt { v with addr := s.addr + n1, len := n2 } = .next u ∧ u.mem = t.mem ∧ u.bv4 = t.bv4 ∧
      u.status = t.status

/-- 43_bv4.md R143: BV4KEY, BV4CRYPT, BV4KEY from the same bytes and BV4CRYPT over the same range restore the buffer,
and all of memory, when the key bytes at ka lie outside the range (70_reset_and_hazards.md R198). -/
def Obligations.Bv4IsAnInvolutionUnderOneKey : Prop :=
  ∀ (s0 : State) (ka a n : Word), s0.mem.wf → ka.toNat + 8 ≤ s0.memSize → a.toNat + n.toNat ≤ s0.memSize →
    n.toNat % 4 = 0 → ka.toNat + 8 ≤ a.toNat ∨ a.toNat + n.toNat ≤ ka.toNat →
    ∃ s1 s2 s3 s4, exec .bv4key { s0 with addr := ka } = .next s1 ∧
      exec .bv4crypt { s1 with addr := a, len := n } = .next s2 ∧
      exec .bv4key { s2 with addr := ka } = .next s3 ∧
      exec .bv4crypt { s3 with addr := a, len := n } = .next s4 ∧ s4.mem = s0.mem

/-! ### The modular chain-and-sum MAC -/

/-- 44_csmod.md R154: CSMOD runs the pairs of words of the buffer through the chain `mac` and the running `sum`, adds B
and D once at the end and delivers `sum` high, `mac` low, or is refused with the code of the first failing check;
nothing else changes. The loop body is the spec's decision D15 (entry 10). -/
def Obligations.CsmodComputesTheChainSum : Prop :=
  ∀ s : State,
    (8 ≤ s.len.toNat → s.len.toNat % 8 = 0 → s.addr.toNat + s.len.toNat ≤ s.memSize →
      ∃ (w mac1 mac sum : Nat → Nat),
        (∀ m < s.len.toNat / 4, w m = (Memory.read32 s.mem (s.addr.toNat + 4 * m)).toNat % 2 ^ 31) ∧
        mac 0 = 0 ∧ sum 0 = 0 ∧
        (∀ k < s.len.toNat / 8,
          mac1 k = (s.seedHi.toNat % 2147483647 * (mac k + s.ke.toNat * w (2 * k) % 2147483647) % 2147483647 +
            s.seedLo.toNat % 2147483647) % 2147483647 ∧
          mac (k + 1) = (s.kc.toNat * (mac1 k + w (2 * k + 1)) % 2147483647 + s.kd.toNat) % 2147483647 ∧
          sum (k + 1) = ((sum k + mac1 k) % 2147483647 + mac (k + 1)) % 2147483647) ∧
        exec .csmod s = .next { s with
          status := { s.status with err := false, ecode := .none, rv := true }
          resHi := BitVec.ofNat 32 ((sum (s.len.toNat / 8) + s.kd.toNat) % 2147483647)
          resLo := BitVec.ofNat 32 ((mac (s.len.toNat / 8) + s.seedLo.toNat % 2147483647) % 2147483647) }) ∧
    (s.len.toNat < 8 ∨ s.len.toNat % 8 ≠ 0 →
      exec .csmod s = .next { s with status := { s.status with err := true, ecode := .badLength } }) ∧
    (8 ≤ s.len.toNat → s.len.toNat % 8 = 0 → s.memSize < s.addr.toNat + s.len.toNat →
      exec .csmod s = .next { s with status := { s.status with err := true, ecode := .badAddress } })

/-- 44_csmod.md R158: both halves of a CSMOD result are below P, so bit 31 of each register is 0 and neither is ever
0x7FFFFFFF. It does not rest on D15 (R155). -/
def Obligations.CsmodResultsAreBelowP : Prop :=
  ∀ s : State, passesChecks .csmod s →
    ∃ t, exec .csmod s = .next t ∧ t.resHi.toNat < 2147483647 ∧ t.resLo.toNat < 2147483647

/-- 44_csmod.md R153: two words that differ only in bit 31 give the same MAC. It does not rest on D15 (R155). -/
def Obligations.CsmodIgnoresBit31OfEachWord : Prop :=
  ∀ (s : State) (m : Memory), passesChecks .csmod s →
    (∀ k < s.len.toNat / 4, Memory.read32 s.mem (s.addr.toNat + 4 * k) &&& 0x7FFFFFFF#32 =
      Memory.read32 m (s.addr.toNat + 4 * k) &&& 0x7FFFFFFF#32) →
    ∃ t t', exec .csmod s = .next t ∧ exec .csmod { s with mem := m } = .next t' ∧ t.resHi = t'.resHi ∧
      t.resLo = t'.resLo

/-- 44_csmod.md R159: the algebraic form, in the integers modulo P = 2^31 - 1: every constant and word enters through
its residue, and each result is the representative below P (the loop body is decision D15, entry 10). -/
def Obligations.CsmodAlgebraicForm : Prop :=
  ∀ s : State, passesChecks .csmod s →
    ∃ (t : State) (u m' m S : Nat → ZMod 2147483647),
      (∀ k < s.len.toNat / 4, u k = ((Memory.read32 s.mem (s.addr.toNat + 4 * k) &&& 0x7FFFFFFF#32).toNat : ZMod _)) ∧
      m 0 = 0 ∧ S 0 = 0 ∧
      (∀ k < s.len.toNat / 8,
        m' k = (s.seedHi.toNat : ZMod _) * (m k + (s.ke.toNat : ZMod _) * u (2 * k)) + (s.seedLo.toNat : ZMod _) ∧
        m (k + 1) = (s.kc.toNat : ZMod _) * (m' k + u (2 * k + 1)) + (s.kd.toNat : ZMod _) ∧
        S (k + 1) = S k + m' k + m (k + 1)) ∧
      exec .csmod s = .next t ∧ t.resLo.toNat < 2147483647 ∧ t.resHi.toNat < 2147483647 ∧
      (t.resLo.toNat : ZMod 2147483647) = m (s.len.toNat / 8) + (s.seedLo.toNat : ZMod _) ∧
      (t.resHi.toNat : ZMod 2147483647) = S (s.len.toNat / 8) + (s.kd.toNat : ZMod _)

/-- 44_csmod.md R161 case 6: with `KC` congruent to 0 modulo P, `RES_LO` is `(D + B) mod P` for every buffer (the loop
body is decision D15, entry 10). -/
def Obligations.CsmodWithZeroKcFixesResLo : Prop :=
  ∀ s : State, passesChecks .csmod s → s.kc.toNat % 2147483647 = 0 →
    ∃ t, exec .csmod s = .next t ∧ t.resLo.toNat = (s.kd.toNat + s.seedLo.toNat) % 2147483647
end

