-- ==== Sys2Proof/Laws/Memory.lean ====
section
/-! SUPPORT. Buffer memory: what a read gives after a write, and that every memory operation keeps the canonical
form `Memory.wf` and the addresses below a bound. -/

namespace Sys2Proof.Machine

theorem Memory.wf_nil : Memory.wf [] := ⟨List.Pairwise.nil, by simp⟩

theorem Memory.wf_tail {c : Host.Cell} {m : Memory} (h : Memory.wf (c :: m)) : Memory.wf m :=
  ⟨(List.pairwise_cons.1 h.1).2, fun d hd => h.2 d (List.mem_cons_of_mem _ hd)⟩

theorem Memory.wf_head_lt {c : Host.Cell} {m : Memory} (h : Memory.wf (c :: m)) : ∀ d ∈ m, c.1 < d.1 :=
  (List.pairwise_cons.1 h.1).1

/-- An address below every listed one is unlisted. -/
theorem Memory.read_of_lt_all {m : Memory} {a : Nat} (h : ∀ c ∈ m, a < c.1) : m.read a = Memory.blankByte := by
  induction m with
  | nil => rfl
  | cons c m ih =>
    have hc := h c List.mem_cons_self
    simp only [Memory.read, Nat.ne_of_lt hc, if_false]
    exact ih fun d hd => h d (List.mem_cons_of_mem _ hd)

/-- The listed addresses after a write: the one written, or one listed before. -/
theorem Memory.mem_write {m : Memory} {a : Nat} {b : Byte} {c : Host.Cell} (h : c ∈ m.write a b) :
    c ∈ m ∨ (c = (a, b) ∧ b ≠ Memory.blankByte) := by
  induction m with
  | nil =>
    simp only [Memory.write] at h
    split at h <;> simp_all
  | cons d m ih =>
    simp only [Memory.write] at h
    split at h
    · split at h
      · exact .inl h
      · rcases List.mem_cons.1 h with h | h
        · exact .inr ⟨h, ‹_›⟩
        · exact .inl h
    · split at h
      · split at h
        · exact .inl (List.mem_cons_of_mem _ h)
        · rcases List.mem_cons.1 h with h | h
          · exact .inr ⟨h, ‹_›⟩
          · exact .inl (List.mem_cons_of_mem _ h)
      · rcases List.mem_cons.1 h with h | h
        · exact .inl (h ▸ List.mem_cons_self)
        · exact (ih h).imp_left (List.mem_cons_of_mem _)

/-- A write keeps the canonical form. -/
theorem Memory.write_wf {m : Memory} (h : m.wf) (a : Nat) (b : Byte) : (m.write a b).wf := by
  induction m with
  | nil =>
    simp only [Memory.write]
    split
    · exact Memory.wf_nil
    · exact ⟨List.pairwise_singleton _ _, by simpa using ‹_›⟩
  | cons c m ih =>
    have hlt := Memory.wf_head_lt h
    have hc : c.2 ≠ Memory.blankByte := h.2 c List.mem_cons_self
    simp only [Memory.write]
    split
    · rename_i hac
      split
      · exact h
      · refine ⟨List.pairwise_cons.2 ⟨fun d hd => ?_, h.1⟩, fun d hd => ?_⟩
        · rcases List.mem_cons.1 hd with rfl | hd
          · exact hac
          · exact hac.trans (hlt d hd)
        · rcases List.mem_cons.1 hd with rfl | hd
          · assumption
          · exact h.2 d hd
    · split
      · rename_i hac
        split
        · exact Memory.wf_tail h
        · refine ⟨List.pairwise_cons.2 ⟨fun d hd => hac ▸ hlt d hd, (Memory.wf_tail h).1⟩, fun d hd => ?_⟩
          rcases List.mem_cons.1 hd with rfl | hd
          · assumption
          · exact (Memory.wf_tail h).2 d hd
      · rename_i h1 h2
        have hw := ih (Memory.wf_tail h)
        refine ⟨List.pairwise_cons.2 ⟨fun d hd => ?_, hw.1⟩, fun d hd => ?_⟩
        · rcases Memory.mem_write hd with hd | ⟨rfl, -⟩
          · exact hlt d hd
          · exact Nat.lt_of_le_of_ne (Nat.le_of_not_lt h1) fun e => h2 e.symm
        · rcases List.mem_cons.1 hd with rfl | hd
          · exact hc
          · exact hw.2 d hd

/-- A read after a write gives the byte written there, and the old byte everywhere else. -/
theorem Memory.read_write {m : Memory} (h : m.wf) (a : Nat) (b : Byte) (x : Nat) :
    (m.write a b).read x = if x = a then b else m.read x := by
  induction m with
  | nil =>
    simp only [Memory.write]
    split <;> simp_all [Memory.read]
  | cons c m ih =>
    have hlt := Memory.wf_head_lt h
    have htail : ∀ y ≤ c.1, Memory.read m y = Memory.blankByte := fun y hy =>
      Memory.read_of_lt_all fun d hd => lt_of_le_of_lt hy (hlt d hd)
    simp only [Memory.write]
    split
    · rename_i hac
      split
      · rename_i hb
        by_cases hx : x = a
        · subst hx
          simp [Memory.read, Nat.ne_of_lt hac, htail x hac.le, hb]
        · simp [hx]
      · simp [Memory.read]
    · split
      · rename_i hac
        split
        · rename_i hb
          by_cases hx : x = a
          · subst hx
            simp [htail x hac.le, hb]
          · simp [Memory.read, hx, hac ▸ hx]
        · simp only [Memory.read]
          by_cases hx : x = a
          · simp [hx]
          · simp [hx, hac ▸ hx]
      · rename_i h1 h2
        simp only [Memory.read, ih (Memory.wf_tail h)]
        by_cases hx : x = c.1
        · have : x ≠ a := fun e => h2 (e ▸ hx)
          simp [hx, hx ▸ this]
        · simp [hx]

/-- Writing a list of bytes keeps the canonical form. -/
theorem Memory.writeBytes_wf {m : Memory} (h : m.wf) (a : Nat) (bs : List Byte) : (m.writeBytes a bs).wf := by
  induction bs generalizing m a with
  | nil => exact h
  | cons b bs ih => exact ih (Memory.write_wf h a b) (a + 1)

/-- Reading after a list of bytes was written from a: byte x - a of the list inside its span, the old byte outside. -/
theorem Memory.read_writeBytes {m : Memory} (h : m.wf) (a : Nat) (bs : List Byte) (x : Nat) :
    (m.writeBytes a bs).read x = if a ≤ x then bs.getD (x - a) (m.read x) else m.read x := by
  induction bs generalizing m a with
  | nil => simp [Memory.writeBytes]
  | cons b bs ih =>
    simp only [Memory.writeBytes, ih (Memory.write_wf h a b), Memory.read_write h]
    rcases Nat.lt_trichotomy x a with hx | rfl | hx
    · simp [Nat.not_le.2 hx, Nat.not_le.2 (Nat.lt_succ_of_lt hx), Nat.ne_of_lt hx]
    · simp
    · obtain ⟨k, rfl⟩ : ∃ k, x = a + 1 + k := ⟨x - (a + 1), by omega⟩
      have e : a + 1 + k - a = k + 1 := by omega
      have h1 : a ≤ a + 1 + k := by omega
      have h2 : a + 1 + k ≠ a := by omega
      rw [if_pos (Nat.le_add_right _ _), if_neg h2, if_pos h1, e, Nat.add_sub_cancel_left, List.getD_cons_succ]

/-- Every listed address lies below n. -/
abbrev Memory.below (n : Nat) (m : Memory) : Prop := ∀ c ∈ m, c.1 < n

theorem Memory.write_below {m : Memory} {n a : Nat} (h : m.below n) (ha : a < n) (b : Byte) :
    (m.write a b).below n := fun c hc => by
  rcases Memory.mem_write hc with hc | ⟨rfl, -⟩
  · exact h c hc
  · exact ha

theorem Memory.writeBytes_below {m : Memory} {n a : Nat} (h : m.below n) {bs : List Byte} (ha : a + bs.length ≤ n) :
    (m.writeBytes a bs).below n := by
  induction bs generalizing m a with
  | nil => exact h
  | cons b bs ih =>
    simp only [List.length_cons] at ha
    exact ih (Memory.write_below h (by omega) b) (by omega)

@[simp] theorem unbe32_length (w : Word) : (unbe32 w).length = 4 := rfl

theorem Memory.write32_wf {m : Memory} (h : m.wf) (a : Nat) (w : Word) : (m.write32 a w).wf :=
  Memory.writeBytes_wf h a _

/-- A word write changes no byte outside its four. -/
theorem Memory.read_write32_outside {m : Memory} (h : m.wf) {a : Nat} (w : Word) {x : Nat} (hx : x < a ∨ a + 4 ≤ x) :
    (m.write32 a w).read x = m.read x := by
  rw [Memory.write32, Memory.read_writeBytes h]
  split
  · rw [List.getD_eq_default]
    simp only [unbe32_length]
    omega
  · rfl

@[simp] theorem Memory.readBytes_length (m : Memory) (a n : Nat) : (m.readBytes a n).length = n := by
  induction n generalizing a with
  | zero => rfl
  | succ n ih => simp [Memory.readBytes, ih]

@[simp] theorem Memory.readBlocks_length (m : Memory) (a n : Nat) : (m.readBlocks a n).length = n := by
  induction n generalizing a with
  | zero => rfl
  | succ n ih => simp [Memory.readBlocks, ih]

@[simp] theorem Memory.readPairs_length (m : Memory) (a n : Nat) : (m.readPairs a n).length = n := by
  induction n generalizing a with
  | zero => rfl
  | succ n ih => simp [Memory.readPairs, ih]

/-- Element i of a register array read from memory is the byte at a + i (20_memory.md R52). -/
theorem Memory.readArray_get (m : Memory) (a n i : Nat) (h : i < n) : (m.readArray a n)[i] = m.read (a + i) := by
  simp [Memory.readArray]

end Sys2Proof.Machine
end

