-- ==== Sys2Proof/Laws/State.lean ====
section
/-! SUPPORT. One lemma per field per update of a state, each true by rfl, so that no later proof unfolds a record
update; then the same for the updates of `STATUS`. -/

namespace Sys2Proof.Machine

variable (s : State) (st : Status)

/-! ### State.setStatus -/

@[simp] theorem State.setStatus_cmd (st : Status) : (s.setStatus st).cmd = s.cmd := rfl
@[simp] theorem State.setStatus_status (st : Status) : (s.setStatus st).status = st := rfl
@[simp] theorem State.setStatus_addr (st : Status) : (s.setStatus st).addr = s.addr := rfl
@[simp] theorem State.setStatus_len (st : Status) : (s.setStatus st).len = s.len := rfl
@[simp] theorem State.setStatus_seedHi (st : Status) : (s.setStatus st).seedHi = s.seedHi := rfl
@[simp] theorem State.setStatus_seedLo (st : Status) : (s.setStatus st).seedLo = s.seedLo := rfl
@[simp] theorem State.setStatus_kc (st : Status) : (s.setStatus st).kc = s.kc := rfl
@[simp] theorem State.setStatus_kd (st : Status) : (s.setStatus st).kd = s.kd := rfl
@[simp] theorem State.setStatus_ke (st : Status) : (s.setStatus st).ke = s.ke := rfl
@[simp] theorem State.setStatus_resHi (st : Status) : (s.setStatus st).resHi = s.resHi := rfl
@[simp] theorem State.setStatus_resLo (st : Status) : (s.setStatus st).resLo = s.resLo := rfl
@[simp] theorem State.setStatus_key (st : Status) : (s.setStatus st).key = s.key := rfl
@[simp] theorem State.setStatus_sbox (st : Status) : (s.setStatus st).sbox = s.sbox := rfl
@[simp] theorem State.setStatus_bv4 (st : Status) : (s.setStatus st).bv4 = s.bv4 := rfl
@[simp] theorem State.setStatus_mem (st : Status) : (s.setStatus st).mem = s.mem := rfl
@[simp] theorem State.setStatus_memLast (st : Status) : (s.setStatus st).memLast = s.memLast := rfl
@[simp] theorem State.setStatus_pending (st : Status) : (s.setStatus st).pending = s.pending := rfl
@[simp] theorem State.setStatus_answers (st : Status) : (s.setStatus st).answers = s.answers := rfl
@[simp] theorem State.setStatus_resets (st : Status) : (s.setStatus st).resets = s.resets := rfl
@[simp] theorem State.setStatus_memSize (st : Status) : (s.setStatus st).memSize = s.memSize := rfl

/-! ### State.setMem -/

@[simp] theorem State.setMem_cmd (m : Memory) : (s.setMem m).cmd = s.cmd := rfl
@[simp] theorem State.setMem_status (m : Memory) : (s.setMem m).status = s.status := rfl
@[simp] theorem State.setMem_addr (m : Memory) : (s.setMem m).addr = s.addr := rfl
@[simp] theorem State.setMem_len (m : Memory) : (s.setMem m).len = s.len := rfl
@[simp] theorem State.setMem_seedHi (m : Memory) : (s.setMem m).seedHi = s.seedHi := rfl
@[simp] theorem State.setMem_seedLo (m : Memory) : (s.setMem m).seedLo = s.seedLo := rfl
@[simp] theorem State.setMem_kc (m : Memory) : (s.setMem m).kc = s.kc := rfl
@[simp] theorem State.setMem_kd (m : Memory) : (s.setMem m).kd = s.kd := rfl
@[simp] theorem State.setMem_ke (m : Memory) : (s.setMem m).ke = s.ke := rfl
@[simp] theorem State.setMem_resHi (m : Memory) : (s.setMem m).resHi = s.resHi := rfl
@[simp] theorem State.setMem_resLo (m : Memory) : (s.setMem m).resLo = s.resLo := rfl
@[simp] theorem State.setMem_key (m : Memory) : (s.setMem m).key = s.key := rfl
@[simp] theorem State.setMem_sbox (m : Memory) : (s.setMem m).sbox = s.sbox := rfl
@[simp] theorem State.setMem_bv4 (m : Memory) : (s.setMem m).bv4 = s.bv4 := rfl
@[simp] theorem State.setMem_mem (m : Memory) : (s.setMem m).mem = m := rfl
@[simp] theorem State.setMem_memLast (m : Memory) : (s.setMem m).memLast = s.memLast := rfl
@[simp] theorem State.setMem_pending (m : Memory) : (s.setMem m).pending = s.pending := rfl
@[simp] theorem State.setMem_answers (m : Memory) : (s.setMem m).answers = s.answers := rfl
@[simp] theorem State.setMem_resets (m : Memory) : (s.setMem m).resets = s.resets := rfl
@[simp] theorem State.setMem_memSize (m : Memory) : (s.setMem m).memSize = s.memSize := rfl

/-! ### State.setKey -/

@[simp] theorem State.setKey_cmd (k : Vector Byte 8) : (s.setKey k).cmd = s.cmd := rfl
@[simp] theorem State.setKey_status (k : Vector Byte 8) : (s.setKey k).status = s.status := rfl
@[simp] theorem State.setKey_addr (k : Vector Byte 8) : (s.setKey k).addr = s.addr := rfl
@[simp] theorem State.setKey_len (k : Vector Byte 8) : (s.setKey k).len = s.len := rfl
@[simp] theorem State.setKey_seedHi (k : Vector Byte 8) : (s.setKey k).seedHi = s.seedHi := rfl
@[simp] theorem State.setKey_seedLo (k : Vector Byte 8) : (s.setKey k).seedLo = s.seedLo := rfl
@[simp] theorem State.setKey_kc (k : Vector Byte 8) : (s.setKey k).kc = s.kc := rfl
@[simp] theorem State.setKey_kd (k : Vector Byte 8) : (s.setKey k).kd = s.kd := rfl
@[simp] theorem State.setKey_ke (k : Vector Byte 8) : (s.setKey k).ke = s.ke := rfl
@[simp] theorem State.setKey_resHi (k : Vector Byte 8) : (s.setKey k).resHi = s.resHi := rfl
@[simp] theorem State.setKey_resLo (k : Vector Byte 8) : (s.setKey k).resLo = s.resLo := rfl
@[simp] theorem State.setKey_key (k : Vector Byte 8) : (s.setKey k).key = k := rfl
@[simp] theorem State.setKey_sbox (k : Vector Byte 8) : (s.setKey k).sbox = s.sbox := rfl
@[simp] theorem State.setKey_bv4 (k : Vector Byte 8) : (s.setKey k).bv4 = s.bv4 := rfl
@[simp] theorem State.setKey_mem (k : Vector Byte 8) : (s.setKey k).mem = s.mem := rfl
@[simp] theorem State.setKey_memLast (k : Vector Byte 8) : (s.setKey k).memLast = s.memLast := rfl
@[simp] theorem State.setKey_pending (k : Vector Byte 8) : (s.setKey k).pending = s.pending := rfl
@[simp] theorem State.setKey_answers (k : Vector Byte 8) : (s.setKey k).answers = s.answers := rfl
@[simp] theorem State.setKey_resets (k : Vector Byte 8) : (s.setKey k).resets = s.resets := rfl
@[simp] theorem State.setKey_memSize (k : Vector Byte 8) : (s.setKey k).memSize = s.memSize := rfl

/-! ### State.setSbox -/

@[simp] theorem State.setSbox_cmd (tab : Vector Byte 256) : (s.setSbox tab).cmd = s.cmd := rfl
@[simp] theorem State.setSbox_status (tab : Vector Byte 256) : (s.setSbox tab).status = s.status := rfl
@[simp] theorem State.setSbox_addr (tab : Vector Byte 256) : (s.setSbox tab).addr = s.addr := rfl
@[simp] theorem State.setSbox_len (tab : Vector Byte 256) : (s.setSbox tab).len = s.len := rfl
@[simp] theorem State.setSbox_seedHi (tab : Vector Byte 256) : (s.setSbox tab).seedHi = s.seedHi := rfl
@[simp] theorem State.setSbox_seedLo (tab : Vector Byte 256) : (s.setSbox tab).seedLo = s.seedLo := rfl
@[simp] theorem State.setSbox_kc (tab : Vector Byte 256) : (s.setSbox tab).kc = s.kc := rfl
@[simp] theorem State.setSbox_kd (tab : Vector Byte 256) : (s.setSbox tab).kd = s.kd := rfl
@[simp] theorem State.setSbox_ke (tab : Vector Byte 256) : (s.setSbox tab).ke = s.ke := rfl
@[simp] theorem State.setSbox_resHi (tab : Vector Byte 256) : (s.setSbox tab).resHi = s.resHi := rfl
@[simp] theorem State.setSbox_resLo (tab : Vector Byte 256) : (s.setSbox tab).resLo = s.resLo := rfl
@[simp] theorem State.setSbox_key (tab : Vector Byte 256) : (s.setSbox tab).key = s.key := rfl
@[simp] theorem State.setSbox_sbox (tab : Vector Byte 256) : (s.setSbox tab).sbox = tab := rfl
@[simp] theorem State.setSbox_bv4 (tab : Vector Byte 256) : (s.setSbox tab).bv4 = s.bv4 := rfl
@[simp] theorem State.setSbox_mem (tab : Vector Byte 256) : (s.setSbox tab).mem = s.mem := rfl
@[simp] theorem State.setSbox_memLast (tab : Vector Byte 256) : (s.setSbox tab).memLast = s.memLast := rfl
@[simp] theorem State.setSbox_pending (tab : Vector Byte 256) : (s.setSbox tab).pending = s.pending := rfl
@[simp] theorem State.setSbox_answers (tab : Vector Byte 256) : (s.setSbox tab).answers = s.answers := rfl
@[simp] theorem State.setSbox_resets (tab : Vector Byte 256) : (s.setSbox tab).resets = s.resets := rfl
@[simp] theorem State.setSbox_memSize (tab : Vector Byte 256) : (s.setSbox tab).memSize = s.memSize := rfl

/-! ### State.setBv4 -/

@[simp] theorem State.setBv4_cmd (b : Bv4) : (s.setBv4 b).cmd = s.cmd := rfl
@[simp] theorem State.setBv4_status (b : Bv4) : (s.setBv4 b).status = s.status := rfl
@[simp] theorem State.setBv4_addr (b : Bv4) : (s.setBv4 b).addr = s.addr := rfl
@[simp] theorem State.setBv4_len (b : Bv4) : (s.setBv4 b).len = s.len := rfl
@[simp] theorem State.setBv4_seedHi (b : Bv4) : (s.setBv4 b).seedHi = s.seedHi := rfl
@[simp] theorem State.setBv4_seedLo (b : Bv4) : (s.setBv4 b).seedLo = s.seedLo := rfl
@[simp] theorem State.setBv4_kc (b : Bv4) : (s.setBv4 b).kc = s.kc := rfl
@[simp] theorem State.setBv4_kd (b : Bv4) : (s.setBv4 b).kd = s.kd := rfl
@[simp] theorem State.setBv4_ke (b : Bv4) : (s.setBv4 b).ke = s.ke := rfl
@[simp] theorem State.setBv4_resHi (b : Bv4) : (s.setBv4 b).resHi = s.resHi := rfl
@[simp] theorem State.setBv4_resLo (b : Bv4) : (s.setBv4 b).resLo = s.resLo := rfl
@[simp] theorem State.setBv4_key (b : Bv4) : (s.setBv4 b).key = s.key := rfl
@[simp] theorem State.setBv4_sbox (b : Bv4) : (s.setBv4 b).sbox = s.sbox := rfl
@[simp] theorem State.setBv4_bv4 (b : Bv4) : (s.setBv4 b).bv4 = b := rfl
@[simp] theorem State.setBv4_mem (b : Bv4) : (s.setBv4 b).mem = s.mem := rfl
@[simp] theorem State.setBv4_memLast (b : Bv4) : (s.setBv4 b).memLast = s.memLast := rfl
@[simp] theorem State.setBv4_pending (b : Bv4) : (s.setBv4 b).pending = s.pending := rfl
@[simp] theorem State.setBv4_answers (b : Bv4) : (s.setBv4 b).answers = s.answers := rfl
@[simp] theorem State.setBv4_resets (b : Bv4) : (s.setBv4 b).resets = s.resets := rfl
@[simp] theorem State.setBv4_memSize (b : Bv4) : (s.setBv4 b).memSize = s.memSize := rfl

/-! ### State.setResult -/

@[simp] theorem State.setResult_cmd (hi lo : Word) : (s.setResult hi lo).cmd = s.cmd := rfl
@[simp] theorem State.setResult_status (hi lo : Word) : (s.setResult hi lo).status = s.status := rfl
@[simp] theorem State.setResult_addr (hi lo : Word) : (s.setResult hi lo).addr = s.addr := rfl
@[simp] theorem State.setResult_len (hi lo : Word) : (s.setResult hi lo).len = s.len := rfl
@[simp] theorem State.setResult_seedHi (hi lo : Word) : (s.setResult hi lo).seedHi = s.seedHi := rfl
@[simp] theorem State.setResult_seedLo (hi lo : Word) : (s.setResult hi lo).seedLo = s.seedLo := rfl
@[simp] theorem State.setResult_kc (hi lo : Word) : (s.setResult hi lo).kc = s.kc := rfl
@[simp] theorem State.setResult_kd (hi lo : Word) : (s.setResult hi lo).kd = s.kd := rfl
@[simp] theorem State.setResult_ke (hi lo : Word) : (s.setResult hi lo).ke = s.ke := rfl
@[simp] theorem State.setResult_resHi (hi lo : Word) : (s.setResult hi lo).resHi = hi := rfl
@[simp] theorem State.setResult_resLo (hi lo : Word) : (s.setResult hi lo).resLo = lo := rfl
@[simp] theorem State.setResult_key (hi lo : Word) : (s.setResult hi lo).key = s.key := rfl
@[simp] theorem State.setResult_sbox (hi lo : Word) : (s.setResult hi lo).sbox = s.sbox := rfl
@[simp] theorem State.setResult_bv4 (hi lo : Word) : (s.setResult hi lo).bv4 = s.bv4 := rfl
@[simp] theorem State.setResult_mem (hi lo : Word) : (s.setResult hi lo).mem = s.mem := rfl
@[simp] theorem State.setResult_memLast (hi lo : Word) : (s.setResult hi lo).memLast = s.memLast := rfl
@[simp] theorem State.setResult_pending (hi lo : Word) : (s.setResult hi lo).pending = s.pending := rfl
@[simp] theorem State.setResult_answers (hi lo : Word) : (s.setResult hi lo).answers = s.answers := rfl
@[simp] theorem State.setResult_resets (hi lo : Word) : (s.setResult hi lo).resets = s.resets := rfl
@[simp] theorem State.setResult_memSize (hi lo : Word) : (s.setResult hi lo).memSize = s.memSize := rfl

/-! ### State.setCmd -/

@[simp] theorem State.setCmd_cmd (w : Word) : (s.setCmd w).cmd = w := rfl
@[simp] theorem State.setCmd_status (w : Word) : (s.setCmd w).status = s.status := rfl
@[simp] theorem State.setCmd_addr (w : Word) : (s.setCmd w).addr = s.addr := rfl
@[simp] theorem State.setCmd_len (w : Word) : (s.setCmd w).len = s.len := rfl
@[simp] theorem State.setCmd_seedHi (w : Word) : (s.setCmd w).seedHi = s.seedHi := rfl
@[simp] theorem State.setCmd_seedLo (w : Word) : (s.setCmd w).seedLo = s.seedLo := rfl
@[simp] theorem State.setCmd_kc (w : Word) : (s.setCmd w).kc = s.kc := rfl
@[simp] theorem State.setCmd_kd (w : Word) : (s.setCmd w).kd = s.kd := rfl
@[simp] theorem State.setCmd_ke (w : Word) : (s.setCmd w).ke = s.ke := rfl
@[simp] theorem State.setCmd_resHi (w : Word) : (s.setCmd w).resHi = s.resHi := rfl
@[simp] theorem State.setCmd_resLo (w : Word) : (s.setCmd w).resLo = s.resLo := rfl
@[simp] theorem State.setCmd_key (w : Word) : (s.setCmd w).key = s.key := rfl
@[simp] theorem State.setCmd_sbox (w : Word) : (s.setCmd w).sbox = s.sbox := rfl
@[simp] theorem State.setCmd_bv4 (w : Word) : (s.setCmd w).bv4 = s.bv4 := rfl
@[simp] theorem State.setCmd_mem (w : Word) : (s.setCmd w).mem = s.mem := rfl
@[simp] theorem State.setCmd_memLast (w : Word) : (s.setCmd w).memLast = s.memLast := rfl
@[simp] theorem State.setCmd_pending (w : Word) : (s.setCmd w).pending = s.pending := rfl
@[simp] theorem State.setCmd_answers (w : Word) : (s.setCmd w).answers = s.answers := rfl
@[simp] theorem State.setCmd_resets (w : Word) : (s.setCmd w).resets = s.resets := rfl
@[simp] theorem State.setCmd_memSize (w : Word) : (s.setCmd w).memSize = s.memSize := rfl

/-! ### State.setPending -/

@[simp] theorem State.setPending_cmd (ms : List HostMove) : (s.setPending ms).cmd = s.cmd := rfl
@[simp] theorem State.setPending_status (ms : List HostMove) : (s.setPending ms).status = s.status := rfl
@[simp] theorem State.setPending_addr (ms : List HostMove) : (s.setPending ms).addr = s.addr := rfl
@[simp] theorem State.setPending_len (ms : List HostMove) : (s.setPending ms).len = s.len := rfl
@[simp] theorem State.setPending_seedHi (ms : List HostMove) : (s.setPending ms).seedHi = s.seedHi := rfl
@[simp] theorem State.setPending_seedLo (ms : List HostMove) : (s.setPending ms).seedLo = s.seedLo := rfl
@[simp] theorem State.setPending_kc (ms : List HostMove) : (s.setPending ms).kc = s.kc := rfl
@[simp] theorem State.setPending_kd (ms : List HostMove) : (s.setPending ms).kd = s.kd := rfl
@[simp] theorem State.setPending_ke (ms : List HostMove) : (s.setPending ms).ke = s.ke := rfl
@[simp] theorem State.setPending_resHi (ms : List HostMove) : (s.setPending ms).resHi = s.resHi := rfl
@[simp] theorem State.setPending_resLo (ms : List HostMove) : (s.setPending ms).resLo = s.resLo := rfl
@[simp] theorem State.setPending_key (ms : List HostMove) : (s.setPending ms).key = s.key := rfl
@[simp] theorem State.setPending_sbox (ms : List HostMove) : (s.setPending ms).sbox = s.sbox := rfl
@[simp] theorem State.setPending_bv4 (ms : List HostMove) : (s.setPending ms).bv4 = s.bv4 := rfl
@[simp] theorem State.setPending_mem (ms : List HostMove) : (s.setPending ms).mem = s.mem := rfl
@[simp] theorem State.setPending_memLast (ms : List HostMove) : (s.setPending ms).memLast = s.memLast := rfl
@[simp] theorem State.setPending_pending (ms : List HostMove) : (s.setPending ms).pending = ms := rfl
@[simp] theorem State.setPending_answers (ms : List HostMove) : (s.setPending ms).answers = s.answers := rfl
@[simp] theorem State.setPending_resets (ms : List HostMove) : (s.setPending ms).resets = s.resets := rfl
@[simp] theorem State.setPending_memSize (ms : List HostMove) : (s.setPending ms).memSize = s.memSize := rfl

/-! ### State.answer -/

@[simp] theorem State.answer_cmd (v : Answer) : (s.answer v).cmd = s.cmd := rfl
@[simp] theorem State.answer_status (v : Answer) : (s.answer v).status = s.status := rfl
@[simp] theorem State.answer_addr (v : Answer) : (s.answer v).addr = s.addr := rfl
@[simp] theorem State.answer_len (v : Answer) : (s.answer v).len = s.len := rfl
@[simp] theorem State.answer_seedHi (v : Answer) : (s.answer v).seedHi = s.seedHi := rfl
@[simp] theorem State.answer_seedLo (v : Answer) : (s.answer v).seedLo = s.seedLo := rfl
@[simp] theorem State.answer_kc (v : Answer) : (s.answer v).kc = s.kc := rfl
@[simp] theorem State.answer_kd (v : Answer) : (s.answer v).kd = s.kd := rfl
@[simp] theorem State.answer_ke (v : Answer) : (s.answer v).ke = s.ke := rfl
@[simp] theorem State.answer_resHi (v : Answer) : (s.answer v).resHi = s.resHi := rfl
@[simp] theorem State.answer_resLo (v : Answer) : (s.answer v).resLo = s.resLo := rfl
@[simp] theorem State.answer_key (v : Answer) : (s.answer v).key = s.key := rfl
@[simp] theorem State.answer_sbox (v : Answer) : (s.answer v).sbox = s.sbox := rfl
@[simp] theorem State.answer_bv4 (v : Answer) : (s.answer v).bv4 = s.bv4 := rfl
@[simp] theorem State.answer_mem (v : Answer) : (s.answer v).mem = s.mem := rfl
@[simp] theorem State.answer_memLast (v : Answer) : (s.answer v).memLast = s.memLast := rfl
@[simp] theorem State.answer_pending (v : Answer) : (s.answer v).pending = s.pending := rfl
@[simp] theorem State.answer_answers (v : Answer) : (s.answer v).answers = v :: s.answers := rfl
@[simp] theorem State.answer_resets (v : Answer) : (s.answer v).resets = s.resets := rfl
@[simp] theorem State.answer_memSize (v : Answer) : (s.answer v).memSize = s.memSize := rfl

/-! ### State.refuse -/

@[simp] theorem State.refuse_cmd (c : ECode) : (s.refuse c).cmd = s.cmd := rfl
@[simp] theorem State.refuse_status (c : ECode) : (s.refuse c).status = s.status.rejected c := rfl
@[simp] theorem State.refuse_addr (c : ECode) : (s.refuse c).addr = s.addr := rfl
@[simp] theorem State.refuse_len (c : ECode) : (s.refuse c).len = s.len := rfl
@[simp] theorem State.refuse_seedHi (c : ECode) : (s.refuse c).seedHi = s.seedHi := rfl
@[simp] theorem State.refuse_seedLo (c : ECode) : (s.refuse c).seedLo = s.seedLo := rfl
@[simp] theorem State.refuse_kc (c : ECode) : (s.refuse c).kc = s.kc := rfl
@[simp] theorem State.refuse_kd (c : ECode) : (s.refuse c).kd = s.kd := rfl
@[simp] theorem State.refuse_ke (c : ECode) : (s.refuse c).ke = s.ke := rfl
@[simp] theorem State.refuse_resHi (c : ECode) : (s.refuse c).resHi = s.resHi := rfl
@[simp] theorem State.refuse_resLo (c : ECode) : (s.refuse c).resLo = s.resLo := rfl
@[simp] theorem State.refuse_key (c : ECode) : (s.refuse c).key = s.key := rfl
@[simp] theorem State.refuse_sbox (c : ECode) : (s.refuse c).sbox = s.sbox := rfl
@[simp] theorem State.refuse_bv4 (c : ECode) : (s.refuse c).bv4 = s.bv4 := rfl
@[simp] theorem State.refuse_mem (c : ECode) : (s.refuse c).mem = s.mem := rfl
@[simp] theorem State.refuse_memLast (c : ECode) : (s.refuse c).memLast = s.memLast := rfl
@[simp] theorem State.refuse_pending (c : ECode) : (s.refuse c).pending = s.pending := rfl
@[simp] theorem State.refuse_answers (c : ECode) : (s.refuse c).answers = s.answers := rfl
@[simp] theorem State.refuse_resets (c : ECode) : (s.refuse c).resets = s.resets := rfl
@[simp] theorem State.refuse_memSize (c : ECode) : (s.refuse c).memSize = s.memSize := rfl

/-! ### State.accept -/

@[simp] theorem State.accept_cmd : (s.accept).cmd = s.cmd := rfl
@[simp] theorem State.accept_status : (s.accept).status = s.status.accepted := rfl
@[simp] theorem State.accept_addr : (s.accept).addr = s.addr := rfl
@[simp] theorem State.accept_len : (s.accept).len = s.len := rfl
@[simp] theorem State.accept_seedHi : (s.accept).seedHi = s.seedHi := rfl
@[simp] theorem State.accept_seedLo : (s.accept).seedLo = s.seedLo := rfl
@[simp] theorem State.accept_kc : (s.accept).kc = s.kc := rfl
@[simp] theorem State.accept_kd : (s.accept).kd = s.kd := rfl
@[simp] theorem State.accept_ke : (s.accept).ke = s.ke := rfl
@[simp] theorem State.accept_resHi : (s.accept).resHi = s.resHi := rfl
@[simp] theorem State.accept_resLo : (s.accept).resLo = s.resLo := rfl
@[simp] theorem State.accept_key : (s.accept).key = s.key := rfl
@[simp] theorem State.accept_sbox : (s.accept).sbox = s.sbox := rfl
@[simp] theorem State.accept_bv4 : (s.accept).bv4 = s.bv4 := rfl
@[simp] theorem State.accept_mem : (s.accept).mem = s.mem := rfl
@[simp] theorem State.accept_memLast : (s.accept).memLast = s.memLast := rfl
@[simp] theorem State.accept_pending : (s.accept).pending = s.pending := rfl
@[simp] theorem State.accept_answers : (s.accept).answers = s.answers := rfl
@[simp] theorem State.accept_resets : (s.accept).resets = s.resets := rfl
@[simp] theorem State.accept_memSize : (s.accept).memSize = s.memSize := rfl

/-! ### Status.accepted -/

@[simp] theorem Status.accepted_err : (st.accepted).err = false := rfl
@[simp] theorem Status.accepted_ecode : (st.accepted).ecode = .none := rfl
@[simp] theorem Status.accepted_kv : (st.accepted).kv = st.kv := rfl
@[simp] theorem Status.accepted_sv : (st.accepted).sv = st.sv := rfl
@[simp] theorem Status.accepted_rv : (st.accepted).rv = st.rv := rfl
@[simp] theorem Status.accepted_bv4ph : (st.accepted).bv4ph = st.bv4ph := rfl

/-! ### Status.rejected -/

@[simp] theorem Status.rejected_err (c : ECode) : (st.rejected c).err = true := rfl
@[simp] theorem Status.rejected_ecode (c : ECode) : (st.rejected c).ecode = c := rfl
@[simp] theorem Status.rejected_kv (c : ECode) : (st.rejected c).kv = st.kv := rfl
@[simp] theorem Status.rejected_sv (c : ECode) : (st.rejected c).sv = st.sv := rfl
@[simp] theorem Status.rejected_rv (c : ECode) : (st.rejected c).rv = st.rv := rfl
@[simp] theorem Status.rejected_bv4ph (c : ECode) : (st.rejected c).bv4ph = st.bv4ph := rfl

/-! ### Status.keyLoaded -/

@[simp] theorem Status.keyLoaded_err : (st.keyLoaded).err = st.err := rfl
@[simp] theorem Status.keyLoaded_ecode : (st.keyLoaded).ecode = st.ecode := rfl
@[simp] theorem Status.keyLoaded_kv : (st.keyLoaded).kv = true := rfl
@[simp] theorem Status.keyLoaded_sv : (st.keyLoaded).sv = st.sv := rfl
@[simp] theorem Status.keyLoaded_rv : (st.keyLoaded).rv = st.rv := rfl
@[simp] theorem Status.keyLoaded_bv4ph : (st.keyLoaded).bv4ph = st.bv4ph := rfl

/-! ### Status.sboxLoaded -/

@[simp] theorem Status.sboxLoaded_err : (st.sboxLoaded).err = st.err := rfl
@[simp] theorem Status.sboxLoaded_ecode : (st.sboxLoaded).ecode = st.ecode := rfl
@[simp] theorem Status.sboxLoaded_kv : (st.sboxLoaded).kv = st.kv := rfl
@[simp] theorem Status.sboxLoaded_sv : (st.sboxLoaded).sv = true := rfl
@[simp] theorem Status.sboxLoaded_rv : (st.sboxLoaded).rv = st.rv := rfl
@[simp] theorem Status.sboxLoaded_bv4ph : (st.sboxLoaded).bv4ph = st.bv4ph := rfl

/-! ### Status.resultReady -/

@[simp] theorem Status.resultReady_err : (st.resultReady).err = st.err := rfl
@[simp] theorem Status.resultReady_ecode : (st.resultReady).ecode = st.ecode := rfl
@[simp] theorem Status.resultReady_kv : (st.resultReady).kv = st.kv := rfl
@[simp] theorem Status.resultReady_sv : (st.resultReady).sv = st.sv := rfl
@[simp] theorem Status.resultReady_rv : (st.resultReady).rv = true := rfl
@[simp] theorem Status.resultReady_bv4ph : (st.resultReady).bv4ph = st.bv4ph := rfl

/-! ### Status.inPhase -/

@[simp] theorem Status.inPhase_err (p : Phase) : (st.inPhase p).err = st.err := rfl
@[simp] theorem Status.inPhase_ecode (p : Phase) : (st.inPhase p).ecode = st.ecode := rfl
@[simp] theorem Status.inPhase_kv (p : Phase) : (st.inPhase p).kv = st.kv := rfl
@[simp] theorem Status.inPhase_sv (p : Phase) : (st.inPhase p).sv = st.sv := rfl
@[simp] theorem Status.inPhase_rv (p : Phase) : (st.inPhase p).rv = st.rv := rfl
@[simp] theorem Status.inPhase_bv4ph (p : Phase) : (st.inPhase p).bv4ph = p := rfl

end Sys2Proof.Machine
end

