-- ==== Sys2Proof/Laws/Ops.lean ====
section
/-! SUPPORT. One lemma for each shared operation that says once what it can do; later proofs cite these and do not
unfold the operation. -/

namespace Sys2Proof.Machine

/-! ### The check and its two outcomes -/

/-- The first failing check gives the code (60_exceptions.md R173). -/
theorem firstFailure_cases (a b c : Bool) :
    (a = false ∧ firstFailure a b c = .missingInput) ∨ (a = true ∧ b = false ∧ firstFailure a b c = .badLength) ∨
      (a = true ∧ b = true ∧ c = false ∧ firstFailure a b c = .badAddress) ∨
      (a = true ∧ b = true ∧ c = true ∧ firstFailure a b c = .none) := by
  cases a <;> cases b <;> cases c <;> simp [firstFailure]

@[simp] theorem firstFailure_eq_none (a b c : Bool) : firstFailure a b c = .none ↔ a = true ∧ b = true ∧ c = true := by
  cases a <;> cases b <;> cases c <;> simp [firstFailure]

/-- A command is refused whole or accepted whole (60_exceptions.md R175). -/
theorem State.attempt_cases (s : State) (c : ECode) (f : State → State) :
    (c = .none ∧ s.attempt c f = f s.accept) ∨ (c ≠ .none ∧ s.attempt c f = s.refuse c) := by
  by_cases h : c = .none <;> simp [State.attempt, h]

@[simp] theorem State.attempt_none (s : State) (f : State → State) : s.attempt .none f = f s.accept := rfl

theorem State.attempt_refused (s : State) {c : ECode} (h : c ≠ .none) (f : State → State) :
    s.attempt c f = s.refuse c := by simp [State.attempt, h]

theorem State.inRange_iff (s : State) (n : Nat) : s.inRange n = true ↔ s.addr.toNat + n ≤ s.memSize := by
  unfold State.inRange State.base
  exact decide_eq_true_iff

theorem State.inRange_eq_false_iff (s : State) (n : Nat) : s.inRange n = false ↔ s.memSize < s.addr.toNat + n := by
  rw [← Bool.not_eq_true, State.inRange_iff, Nat.not_le]

/-- The host's accesses lie inside `MEM` (20_memory.md R50). -/
theorem hostSpan_iff (memSize a n : Nat) : hostSpan memSize a n = true ↔ n = 0 ∨ a + n ≤ memSize := by
  simp [hostSpan]

theorem blockLength_iff (n : Nat) : blockLength n = true ↔ 8 ≤ n ∧ n % 8 = 0 := by simp [blockLength]

theorem wordLength_iff (n : Nat) : wordLength n = true ↔ n % 4 = 0 := by simp [wordLength]

theorem Status.parveReady_iff (st : Status) : st.parveReady = true ↔ st.kv = true ∧ st.sv = true := by
  simp [Status.parveReady]

theorem Status.streamReady_iff (st : Status) :
    st.streamReady = true ↔ st.bv4ph = .warmedUp ∨ st.bv4ph = .streaming := by
  simp [Status.streamReady]

/-- The base and length of an operand are read from `ADDR` and `LEN` alone. -/
@[simp] theorem State.setStatus_base (s : State) (st : Status) : (s.setStatus st).base = s.base := rfl
@[simp] theorem State.setStatus_bytes (s : State) (st : Status) : (s.setStatus st).bytes = s.bytes := rfl
@[simp] theorem State.accept_base (s : State) : s.accept.base = s.base := rfl
@[simp] theorem State.accept_bytes (s : State) : s.accept.bytes = s.bytes := rfl

/-! ### Effects of accepted commands -/

/-- LDKEY writes `K` and `KV` and nothing else (40_setup.md R90, R91). -/
theorem loadKey_eq (s : State) :
    loadKey s = { s with key := s.mem.readArray s.base 8, status := { s.status with kv := true } } := rfl

/-- LDSBOX writes `S` and `SV` and nothing else (40_setup.md R90, R92). -/
theorem loadSbox_eq (s : State) :
    loadSbox s = { s with sbox := s.mem.readArray s.base 256, status := { s.status with sv := true } } := by
  unfold loadSbox State.setSbox State.setStatus Status.sboxLoaded
  rfl

/-- PENC and PDEC write the eight bytes of the block and nothing else (41_parve.md R104, R107). -/
theorem transformBlock_eq (f : Block → Block) (s : State) :
    transformBlock f s = { s with mem := s.mem.writeBytes s.base (f (s.mem.readArray s.base 8)).toList } := rfl

/-- CBCMAC writes the result pair and `RV` and nothing else (42_cbcmac.md R122). -/
theorem deliverBlock_eq (b : Block) (s : State) :
    deliverBlock b s = { s with resHi := blockHi b, resLo := blockLo b, status := { s.status with rv := true } } := rfl

/-- CSMOD writes the result pair and `RV` and nothing else (44_csmod.md R154). -/
theorem deliverAcc_eq (acc : CsmodAcc) (s : State) :
    deliverAcc acc s =
      { s with
        resHi := BitVec.ofNat 32 acc.sum, resLo := BitVec.ofNat 32 acc.mac, status := { s.status with rv := true } } :=
  rfl

/-- BV4KEY writes the BV4 registers and the phase and nothing else (43_bv4.md R131). -/
theorem keyStream_eq (s : State) :
    keyStream s =
      { s with
        bv4 := warmUp (keySchedule (s.mem.readArray s.base 8) s.bv4)
        status := { s.status with bv4ph := .warmedUp } } := by
  unfold keyStream warmStream scheduleKey State.setBv4 State.setStatus Status.inPhase
  rfl

/-- A word step writes one word of memory, the BV4 registers and the phase, and nothing else (43_bv4.md R141). -/
theorem wordStep_eq (a : Nat) (s : State) :
    wordStep a s =
      { s with
        mem := s.mem.write32 a (s.mem.read32 a ^^^ nextStreamWord s.bv4)
        bv4 := nextStream s.bv4
        status := { s.status with bv4ph := .streaming } } := rfl

/-- n word steps write memory, the BV4 registers and the phase, and nothing else (43_bv4.md R139). -/
theorem wordSteps_frame (n a : Nat) (s : State) :
    ∃ m b p, wordSteps n a s = { s with mem := m, bv4 := b, status := { s.status with bv4ph := p } } := by
  induction n generalizing a s with
  | zero => exact ⟨s.mem, s.bv4, s.status.bv4ph, rfl⟩
  | succ n ih =>
    obtain ⟨m, b, p, h⟩ := ih (a + 4) (wordStep a s)
    exact ⟨m, b, p, by rw [wordSteps, h, wordStep_eq]⟩

/-- The phase after n word steps: Streaming at the first word, unchanged when there is none (10_state.md R36). -/
theorem wordSteps_phase (n a : Nat) (s : State) :
    (wordSteps n a s).status.bv4ph = if n = 0 then s.status.bv4ph else .streaming := by
  induction n generalizing a s with
  | zero => rfl
  | succ n ih =>
    rw [wordSteps, ih]
    split <;> simp [wordStep_eq]

/-- The BV4 registers after n word steps are n updates of the ones before: the buffer has no part in them. -/
theorem wordSteps_bv4 (n a : Nat) (s : State) : (wordSteps n a s).bv4 = nextStream^[n] s.bv4 := by
  induction n generalizing a s with
  | zero => rfl
  | succ n ih =>
    rw [wordSteps, ih, wordStep_eq]
    rfl

/-- Word steps keep the canonical form of memory. -/
theorem wordSteps_mem_wf {s : State} (h : s.mem.wf) (n a : Nat) : (wordSteps n a s).mem.wf := by
  induction n generalizing a s with
  | zero => exact h
  | succ n ih => exact ih (Memory.write32_wf h a _) (a + 4)

/-- n word steps from a leave every byte outside `a .. a + 4n - 1`. -/
theorem wordSteps_read_outside {s : State} (h : s.mem.wf) (n a : Nat) {x : Nat} (hx : x < a ∨ a + 4 * n ≤ x) :
    (wordSteps n a s).mem.read x = s.mem.read x := by
  induction n generalizing a s with
  | zero => rfl
  | succ n ih =>
    rw [wordSteps, ih (s := wordStep a s) (Memory.write32_wf h a _) (a + 4) (by omega)]
    exact Memory.read_write32_outside h _ (by omega)

/-! ### Interface registers -/

/-- The readable registers are exactly 1 .. 10 (10_state.md R22). -/
theorem State.readRegister_isSome (s : State) (idx : Nat) : (s.readRegister idx).isSome = hostMayRead idx := by
  unfold State.readRegister hostMayRead
  split <;> simp_all
  omega

/-- A register write changes one operand register and nothing else, and only 2 .. 8 can be written so
(10_state.md R22, R24). -/
theorem State.writeRegister_cases {s t : State} {idx : Nat} {v : Word} (h : s.writeRegister idx v = some t) :
    (idx = 2 ∧ t = { s with addr := v }) ∨ (idx = 3 ∧ t = { s with len := v }) ∨
    (idx = 4 ∧ t = { s with seedHi := v }) ∨ (idx = 5 ∧ t = { s with seedLo := v }) ∨
    (idx = 6 ∧ t = { s with kc := v }) ∨ (idx = 7 ∧ t = { s with kd := v }) ∨ (idx = 8 ∧ t = { s with ke := v }) := by
  unfold State.writeRegister at h
  split at h <;> simp_all

theorem State.writeRegister_isSome (s : State) (idx : Nat) (v : Word) :
    (s.writeRegister idx v).isSome = (2 ≤ idx && idx ≤ 8) := by
  unfold State.writeRegister
  split <;> simp_all
  omega

/-! ### Moves -/

/-- An issued word runs its command, or is refused by the machine (30_encoding.md R71, R79). -/
theorem issueWord_cases (w : Word) (s : State) :
    (∃ i, decode w = .ok i ∧ issueWord w s = exec i (s.setCmd w)) ∨
      (∃ e, decode w = .error e ∧ issueWord w s = .next ((s.setCmd w).refuse .illegalCommand)) := by
  unfold issueWord
  cases h : decode w with
  | ok i => exact .inl ⟨i, rfl, rfl⟩
  | error e => exact .inr ⟨e, rfl, rfl⟩

/-- What a step can be: nothing to do, or the first pending move (entry 6). -/
theorem step_cases (s : State) :
    (s.pending = [] ∧ step s = .next s) ∨
      (∃ m rest, s.pending = m :: rest ∧ step s = performMove m (s.setPending rest)) := by
  unfold step
  cases h : s.pending with
  | nil => exact .inl ⟨rfl, rfl⟩
  | cons m rest => exact .inr ⟨m, rest, rfl, rfl⟩

/-- The step that a command word placed by `withFetchWord` takes (30_encoding.md R71). -/
theorem step_withFetchWord (s : State) (nbits w : Nat) :
    step (s.withFetchWord nbits w) = issueWord (BitVec.ofNat 32 (w % 2 ^ nbits)) s := by
  cases s
  rfl

end Sys2Proof.Machine
end

