-- ==== Sys2Proof/Laws/Exec.lean ====
section
/-! SUPPORT. What any command can do, said once: its check, its effect, and the two forms a next state of exec has. -/

namespace Sys2Proof.Machine

/-- The check each command makes (60_exceptions.md R173). -/
def commandCheck : Instr → State → ECode
  | .ldkey, s => s.checkFixed 8
  | .ldsbox, s => s.checkFixed 256
  | .penc, s => s.checkBlock
  | .pdec, s => s.checkBlock
  | .cbcmac, s => s.checkCbcmac
  | .bv4key, s => s.checkFixed 8
  | .bv4crypt, s => s.checkCrypt
  | .csmod, s => s.checkCsmod

/-- The effect each command has once accepted; PENC and PDEC use the key and S-box the state s holds. -/
def commandEffect : Instr → State → State → State
  | .ldkey, _ => loadKey
  | .ldsbox, _ => loadSbox
  | .penc, s => transformBlock (parveEnc s.key s.sbox)
  | .pdec, s => transformBlock (parveDec s.key s.sbox)
  | .cbcmac, _ => macBuffer
  | .bv4key, _ => keyStream
  | .bv4crypt, _ => cryptBuffer
  | .csmod, _ => chainSum

/-- Every command is one check and one effect. -/
theorem exec_eq_attempt (i : Instr) (s : State) :
    exec i s = .next (s.attempt (commandCheck i s) (commandEffect i s)) := by
  cases i <;> rfl

/-- The model's checks are those of the table of 60_exceptions.md R173. -/
theorem commandCheck_eq_none_iff (i : Instr) (s : State) : commandCheck i s = .none ↔ passesChecks i s := by
  cases i <;>
    simp only [commandCheck, State.checkFixed, State.checkBlock, State.checkCbcmac, State.checkCrypt,
      State.checkCsmod, firstFailure_eq_none, State.inRange_iff, Status.parveReady_iff, Status.streamReady_iff,
      blockLength_iff, wordLength_iff, State.bytes, passesChecks, true_and]

/-- After decode a check fails with one of three codes. -/
theorem commandCheck_ne_illegal (i : Instr) (s : State) : commandCheck i s ≠ .illegalCommand := by
  have h : ∀ a b c, firstFailure a b c ≠ .illegalCommand := by decide
  cases i <;>
    simp only [commandCheck, State.checkFixed, State.checkBlock, State.checkCbcmac, State.checkCrypt,
      State.checkCsmod] <;>
    exact h _ _ _

/-- No effect touches `ERR` or `ECODE`: acceptance has set them. -/
theorem commandEffect_err (i : Instr) (s u : State) :
    (commandEffect i s u).status.err = u.status.err ∧ (commandEffect i s u).status.ecode = u.status.ecode := by
  cases i
  case bv4key => rw [commandEffect, keyStream_eq]; exact ⟨rfl, rfl⟩
  case bv4crypt =>
    obtain ⟨m, b, p, h⟩ := wordSteps_frame (u.bytes / 4) u.base u
    simp only [commandEffect, cryptBuffer, h, and_self]
  all_goals exact ⟨rfl, rfl⟩

/-- The two forms of a next state of exec: refused, with a code of a failing check, or accepted, with the effect. -/
theorem exec_next_cases {i : Instr} {s t : State} (h : exec i s = .next t) :
    (t.status.err = true ∧ ¬ passesChecks i s ∧
      ∃ c, (c = .missingInput ∨ c = .badLength ∨ c = .badAddress) ∧ t = s.refuse c) ∨
    (t.status.err = false ∧ t.status.ecode = .none ∧ passesChecks i s ∧ t = commandEffect i s s.accept) := by
  rw [exec_eq_attempt] at h
  injection h with h
  rcases State.attempt_cases s (commandCheck i s) (commandEffect i s) with ⟨hc, ha⟩ | ⟨hc, ha⟩
  · have he := commandEffect_err i s s.accept
    rw [← ha, h] at he
    exact .inr ⟨he.1, he.2, (commandCheck_eq_none_iff i s).1 hc, by rw [← h, ha]⟩
  · rw [ha] at h
    refine .inl ⟨by rw [← h]; rfl, fun hp => hc ((commandCheck_eq_none_iff i s).2 hp), commandCheck i s, ?_, h.symm⟩
    have hi := commandCheck_ne_illegal i s
    revert hc hi
    cases commandCheck i s <;> simp

end Sys2Proof.Machine
end

