-- ==== Sys2Proof/Laws/PerInstr.lean ====
section
/-! SUPPORT. Facts about each command as syntax, one lemma per constructor. -/

namespace Sys2Proof.Laws.CommandWord

/-- The command word of an instruction has its reserved bits zero and its opcode in bits 7:0, and the instruction is
well-formed (30_encoding.md R71, R72, R74). -/
def Statement (i : Instr) : Prop :=
  i.wellFormed = true ∧ rsvField (encode i) = 0#24 ∧ opcField (encode i) = opcode i

theorem ldkey : Statement .ldkey := by unfold Statement; decide
theorem ldsbox : Statement .ldsbox := by unfold Statement; decide
theorem penc : Statement .penc := by unfold Statement; decide
theorem pdec : Statement .pdec := by unfold Statement; decide
theorem cbcmac : Statement .cbcmac := by unfold Statement; decide
theorem bv4key : Statement .bv4key := by unfold Statement; decide
theorem bv4crypt : Statement .bv4crypt := by unfold Statement; decide
theorem csmod : Statement .csmod := by unfold Statement; decide

end Sys2Proof.Laws.CommandWord
end

