-- ==== Sys2Proof/Laws/Run.lean ====
section
/-! SUPPORT. Runs of the machine: one more step at the front, and the induction over a run, packaged once. -/

namespace Sys2Proof.Machine

/-- The step that takes the first pending move. -/
theorem step_of_pending {s : State} {m : HostMove} {rest : List HostMove} (h : s.pending = m :: rest) :
    step s = performMove m (s.setPending rest) := by
  unfold step
  rw [h]

/-- A run of k + 1 steps whose first step answers t is the run of k steps from t. -/
theorem runSteps_succ_of_step {s t : State} (h : step s = .next t) (k : Nat) :
    runSteps (k + 1) s = runSteps k t := by
  simp only [runSteps, h]

/-- The host's `run` of any machine, one step at the front. -/
theorem coreRun_succ (M : Host.Core) (k : Nat) (s : M.State) :
    (∃ t, M.step s = .next t ∧ M.run (k + 1) s = M.run k t) ∨
      (∃ r, M.step s = .fault r ∧ M.run (k + 1) s = .fault r) ∨
      (∃ r, M.step s = .refused r ∧ M.run (k + 1) s = .refused r) := by
  cases h : M.step s with
  | next t => exact .inl ⟨t, rfl, by simp [Host.Core.run, h]⟩
  | fault r => exact .inr (.inl ⟨r, rfl, by simp [Host.Core.run, h]⟩)
  | refused r => exact .inr (.inr ⟨r, rfl, by simp [Host.Core.run, h]⟩)

/-- `runSteps` is the host's `run` of the machine. -/
theorem runSteps_eq_coreRun (k : Nat) (s : State) : runSteps k s = Host.Core.run Sys2Proof.core k s := by
  induction k generalizing s with
  | zero => rfl
  | succ k ih =>
    rcases coreRun_succ Sys2Proof.core k s with ⟨t, hs, hr⟩ | ⟨r, hs, -⟩ | ⟨r, hs, hr⟩
    · exact (runSteps_succ_of_step hs k).trans ((ih t).trans hr.symm)
    · exact nomatch r
    · have h' : runSteps (k + 1) s = .refused r := by
        have hs' : step s = .refused r := hs
        simp only [runSteps, hs']
      exact h'.trans hr.symm

/-- What every step goes on from and keeps, every run goes on from: a set P of states whose steps all answer a next
state in P. -/
theorem runsOn_of_kept {P : State → Prop} (kept : ∀ s, P s → ∃ t, step s = .next t ∧ P t) {s : State} (h : P s) :
    s.runsOn := by
  intro k
  induction k generalizing s with
  | zero => exact ⟨s, rfl⟩
  | succ k ih =>
    obtain ⟨t, ht, hP⟩ := kept s h
    obtain ⟨u, hu⟩ := ih hP
    exact ⟨u, by rw [runSteps_succ_of_step ht, hu]⟩

end Sys2Proof.Machine
end

