-- ==== Sys2Proof/Laws/Tables.lean ====
section
/-! SUPPORT. The 256-byte tables: what a cell holds after a write and after a swap. -/

namespace Sys2Proof.Machine

/-- The cell written holds the value; every other cell is as before. -/
theorem byteAt_setByteAt (tab : Vector Byte 256) (t v c : Byte) :
    byteAt (setByteAt tab t v) c = if c = t then v else byteAt tab c := by
  unfold byteAt setByteAt
  rw [Vector.getElem_set]
  have e : t.toNat = c.toNat ↔ c = t := ⟨fun h => (BitVec.eq_of_toNat_eq h).symm, fun h => by rw [h]⟩
  simp only [e]

/-- A swap exchanges two cells and leaves the others. -/
theorem byteAt_swapAt (tab : Vector Byte 256) (i j c : Byte) :
    byteAt (swapAt tab i j) c = byteAt tab (Equiv.swap i j c) := by
  have e : ∀ t : Byte, (c.toNat = t.toNat) = (c = t) := fun t =>
    propext ⟨fun h => BitVec.eq_of_toNat_eq h, fun h => by rw [h]⟩
  unfold byteAt swapAt
  rw [Vector.getElem_swap]
  simp only [e, Equiv.swap_apply_def]
  split
  · rfl
  · split <;> rfl

end Sys2Proof.Machine
end

