-- ==== Sys2Proof/Laws/Stream.lean ====
section
/-! SUPPORT. The BV4 functions field by field, so that no later proof unfolds the warm-up or a word step. -/

namespace Sys2Proof.Machine

@[simp] theorem keySchedule_s (key : Vector Byte 8) (b : Bv4) : (keySchedule key b).s = scheduleTable key := by
  simp only [keySchedule]
@[simp] theorem keySchedule_i (key : Vector Byte 8) (b : Bv4) : (keySchedule key b).i = 0#8 := by
  simp only [keySchedule]
@[simp] theorem keySchedule_j (key : Vector Byte 8) (b : Bv4) : (keySchedule key b).j = 0#8 := by
  simp only [keySchedule]
@[simp] theorem keySchedule_h (key : Vector Byte 8) (b : Bv4) : (keySchedule key b).h = b.h := by
  simp only [keySchedule]
@[simp] theorem keySchedule_y (key : Vector Byte 8) (b : Bv4) : (keySchedule key b).y = b.y := by
  simp only [keySchedule]

@[simp] theorem warmUp_s (b : Bv4) : (warmUp b).s = (rc4Bytes 132 b).2.s := by simp only [warmUp]
@[simp] theorem warmUp_i (b : Bv4) : (warmUp b).i = (rc4Bytes 132 b).2.i := by simp only [warmUp]
@[simp] theorem warmUp_j (b : Bv4) : (warmUp b).j = (rc4Bytes 132 b).2.j := by simp only [warmUp]
@[simp] theorem warmUp_h (b : Bv4) : (warmUp b).h = wordAt (rc4Bytes 132 b).1 0 := by simp only [warmUp]
@[simp] theorem warmUp_y (b : Bv4) (m : Fin 32) : (warmUp b).y[m] = wordAt (rc4Bytes 132 b).1 (4 + 4 * m.val) := by
  simp only [warmUp, Fin.getElem_fin, Vector.getElem_ofFn]

@[simp] theorem rc4Bytes_length (n : Nat) (b : Bv4) : (rc4Bytes n b).1.length = n := by
  induction n generalizing b with
  | zero => rfl
  | succ n ih => simp only [rc4Bytes, List.length_cons, ih]

/-- The state n output bytes leave is n index updates of the one before (43_bv4.md R133). -/
theorem rc4Bytes_state (n : Nat) (b : Bv4) : (rc4Bytes n b).2 = rc4Advance^[n] b := by
  induction n generalizing b with
  | zero => rfl
  | succ n ih => simp only [rc4Bytes, ih, Function.iterate_succ_apply]

@[simp] theorem rc4Advance_i (b : Bv4) : (rc4Advance b).i = b.i + 1#8 := rfl
@[simp] theorem rc4Advance_j (b : Bv4) : (rc4Advance b).j = b.j + byteAt b.s (b.i + 1#8) := rfl
@[simp] theorem rc4Advance_h (b : Bv4) : (rc4Advance b).h = b.h := rfl
@[simp] theorem rc4Advance_y (b : Bv4) : (rc4Advance b).y = b.y := rfl

/-- The table after an index update: two cells exchanged. -/
theorem byteAt_rc4Advance (b : Bv4) (x : Byte) :
    byteAt (rc4Advance b).s x = byteAt b.s (Equiv.swap (rc4Advance b).i (rc4Advance b).j x) :=
  byteAt_swapAt _ _ _ _

@[simp] theorem nextStream_i (b : Bv4) : (nextStream b).i = (rc4Advance b).i := rfl
@[simp] theorem nextStream_j (b : Bv4) : (nextStream b).j = (rc4Advance b).j := rfl
@[simp] theorem nextStream_y (b : Bv4) : (nextStream b).y = b.y := rfl
theorem nextStream_h (b : Bv4) : (nextStream b).h = b.h + tableWord b (rc4Index (rc4Advance b)) := rfl

/-- The table after a word step: one cell of the swapped table takes up the low byte of a word of `y`
(43_bv4.md R141 step 6). -/
theorem byteAt_nextStream (b : Bv4) (x : Byte) :
    byteAt (nextStream b).s x =
      if x = rc4Index (rc4Advance b) then
        byteAt (rc4Advance b).s (rc4Index (rc4Advance b)) + u8 (tableWord b (rc4Index (rc4Advance b)))
      else byteAt (rc4Advance b).s x :=
  byteAt_setByteAt _ _ _ _

end Sys2Proof.Machine
end

