-- ==== Sys2Proof/Tests/Slice0.lean ====
section
/-! SUPPORT. Tests: ill-formed moves are refused, words written out from the opcode map decode, small instruction tests
whose expected values are the spec's (95_test_vectors.md and the worked examples of the rules), and for every statement
with hypotheses a concrete state that meets them, at a boundary value for each of its clauses. -/

namespace Sys2Proof.Tests

open Sys2Proof Sys2Proof.Machine

/-! ### Helpers -/

/-- A core with `MEMSIZE` = 0x1000, the size the vectors of 95_test_vectors.md use. -/
def bench (a n : Word) (st : Status) : State :=
  { State.reset with memLast := 0xFFF#32, addr := a, len := n, status := st }

/-- The core of `bench` with moves still to be made. -/
def queued (moves : List HostMove) : State := { bench 0#32 0#32 Status.cleared with pending := moves }

/-- `KV` = `SV` = 1, phase Idle: 0x30. -/
def loaded : Status := { Status.cleared with kv := true, sv := true }

/-- `KV` = `SV` = 1, phase WarmedUp: 0x230. -/
def warmed : Status := { loaded with bv4ph := .warmedUp }

/-- Phase Streaming: 0x330. -/
def streaming : Status := { loaded with bv4ph := .streaming }

/-- The state of a `next` outcome; the state given where there is none. -/
def after (o : Host.Outcome State Fault Refusal) (s : State) : State :=
  match o with
  | .next t => t
  | .fault _ => s
  | .refused _ => s

/-- Key 00 01 .. 07. -/
def key07 : Vector Byte 8 := #v[0#8, 1#8, 2#8, 3#8, 4#8, 5#8, 6#8, 7#8]

/-- The core of `bench` with key 00 .. 07 and the identity S-box loaded. -/
def keyed (a n : Word) : State := { bench a n loaded with key := key07, sbox := identityTable }

/-- Constants of MD3: seed (2, 3), keys (5, 7, 11). -/
def seeded (a n : Word) (m : Memory) : State :=
  { bench a n Status.cleared with seedHi := 2#32, seedLo := 3#32, kc := 5#32, kd := 7#32, ke := 11#32, mem := m }

/-! ### Well-formedness: each check refuses an ill-formed term (10_state.md R22, 20_memory.md R50) -/

theorem test_wr_status_ill_formed : (HostMove.wr 1 0#32).wellFormed 0x1000 = false := by decide
theorem test_wr_result_ill_formed :
    (HostMove.wr 9 0#32).wellFormed 0x1000 = false ∧ (HostMove.wr 10 0#32).wellFormed 0x1000 = false := by decide
theorem test_wr_above_ill_formed : (HostMove.wr 11 0#32).wellFormed 0x1000 = false := by decide
theorem test_rd_cmd_ill_formed : (HostMove.rd 0).wellFormed 0x1000 = false := by decide
theorem test_rd_above_ill_formed : (HostMove.rd 11).wellFormed 0x1000 = false := by decide
theorem test_memwr_outside_ill_formed : (HostMove.memwr 0xFFF [1#8, 2#8]).wellFormed 0x1000 = false := by decide
theorem test_memrd_outside_ill_formed : (HostMove.memrd 0x1000 1).wellFormed 0x1000 = false := by decide
theorem test_moves_well_formed :
    ∀ m ∈ [HostMove.wr 0 0#32, .wr 2 0#32, .wr 8 0#32, .rd 1, .rd 10, .memwr 0xFFE [1#8, 2#8], .memrd 0xFFF 1, .reset],
      m.wellFormed 0x1000 = true := by decide

/-! ### Decoding: words written out bit by bit from 30_encoding.md R71 and R74 -/

theorem test_decode_ldkey : decode 0b000000000000000000000000_00000001#32 = .ok .ldkey := by decide
theorem test_decode_ldsbox : decode 0b000000000000000000000000_00000010#32 = .ok .ldsbox := by decide
theorem test_decode_penc : decode 0b000000000000000000000000_00010000#32 = .ok .penc := by decide
theorem test_decode_pdec : decode 0b000000000000000000000000_00010001#32 = .ok .pdec := by decide
theorem test_decode_cbcmac : decode 0b000000000000000000000000_00010010#32 = .ok .cbcmac := by decide
theorem test_decode_bv4key : decode 0b000000000000000000000000_00100000#32 = .ok .bv4key := by decide
theorem test_decode_bv4crypt : decode 0b000000000000000000000000_00100001#32 = .ok .bv4crypt := by decide
theorem test_decode_csmod : decode 0b000000000000000000000000_00110000#32 = .ok .csmod := by decide

/-- RF1, RF1b of 95_test_vectors.md: words that are no command. -/
theorem test_decode_rejects :
    decode 0x00000000#32 = .error .unknownOpcode ∧ decode 0x00000013#32 = .error .unknownOpcode ∧
      decode 0x000000FF#32 = .error .unknownOpcode ∧ decode 0x00000110#32 = .error .reservedNotZero ∧
      decode 0x80000010#32 = .error .reservedNotZero := by decide

theorem test_encode_csmod : encode .csmod = 0x00000030#32 := by decide
theorem test_table_word : decodeTableWord 32 0x21 = some .bv4crypt ∧ decodeTableWord 32 0x100 = none := by decide

/-- A command word placed by `withFetchWord` is the very next one to run: RF2 of 95_test_vectors.md. -/
theorem test_fetch_word_runs : (after (step (State.reset.withFetchWord 32 0x10)) State.reset).status.toWord = 0x05#32 := by
  decide +kernel

/-! ### Instruction tests -/

/-- LDKEY: the example of 40_setup.md R91, and ST2. -/
theorem test_ldkey :
    (after (exec .ldkey { bench 0x100#32 0#32 Status.cleared with
      mem := [(0x101, 1#8), (0x102, 2#8), (0x103, 3#8), (0x104, 4#8), (0x105, 5#8), (0x106, 6#8), (0x107, 7#8)] })
      State.reset).key = key07 ∧
    (after (exec .ldkey (bench 0x100#32 0#32 Status.cleared)) State.reset).status.toWord = 0x10#32 := by decide +kernel

/-- LDSBOX: ST4 of 95_test_vectors.md, refused at 0xF01. -/
theorem test_ldsbox_refused :
    (after (exec .ldsbox (bench 0xF01#32 0#32 { Status.cleared with kv := true })) State.reset).status.toWord =
      0x19#32 := by decide +kernel

/-- LDSBOX: ST3 and ST4, accepted at 0xF00. -/
theorem test_ldsbox_accepted :
    (after (exec .ldsbox (bench 0xF00#32 0#32 { Status.cleared with kv := true })) State.reset).status.toWord =
      0x30#32 := by decide +kernel

/-- 41_parve.md R111: one round by hand. -/
theorem test_enc_round : encRound zeroBlock identityTable zeroBlock 8#8 =
    #v[0xFF#8, 0x10#8, 0x30#8, 0x70#8, 0xF0#8, 0xF1#8, 0xF3#8, 0xF7#8] := by decide +kernel

/-- PENC: PV1 of 95_test_vectors.md. -/
theorem test_penc : (after (exec .penc (keyed 0xFF8#32 0#32)) State.reset).mem =
    [(0xFF8, 0x08#8), (0xFF9, 0x7E#8), (0xFFA, 0xE7#8), (0xFFB, 0x6A#8), (0xFFC, 0x40#8), (0xFFD, 0xA1#8),
      (0xFFE, 0x41#8), (0xFFF, 0x7A#8)] := by decide +kernel

/-- PENC: RF5b of 95_test_vectors.md. -/
theorem test_penc_refused : (after (exec .penc (keyed 0xFF9#32 0#32)) State.reset).status.toWord = 0x39#32 := by
  decide +kernel

/-- PDEC: PV1 of 95_test_vectors.md. -/
theorem test_pdec : parveDec key07 identityTable zeroBlock =
    #v[0x4C#8, 0xEF#8, 0xAA#8, 0x22#8, 0x0D#8, 0xD2#8, 0xD5#8, 0xA8#8] := by decide +kernel

/-- PDEC: RF2b of 95_test_vectors.md, key only. -/
theorem test_pdec_refused :
    (after (exec .pdec (bench 0#32 0#32 { Status.cleared with kv := true })) State.reset).status.toWord = 0x15#32 := by
  decide +kernel

/-- CBCMAC: CM1 of 95_test_vectors.md. -/
theorem test_cbcmac :
    (after (exec .cbcmac (keyed 0#32 16#32)) State.reset).resHi = 0x5CCCE451#32 ∧
      (after (exec .cbcmac (keyed 0#32 16#32)) State.reset).resLo = 0xF583D851#32 := by decide +kernel

/-- CBCMAC: the order of the checks, RF6 and RF6b of 95_test_vectors.md. -/
theorem test_cbcmac_order :
    (after (exec .cbcmac (bench 0#32 7#32 Status.cleared)) State.reset).status.toWord = 0x05#32 ∧
      (after (exec .cbcmac (bench 0xFFF#32 7#32 loaded)) State.reset).status.toWord = 0x37#32 := by decide +kernel

/-- BV4KEY: the first three schedule steps under key 00 .. 07, by hand from 43_bv4.md R132: `j` is 0, then 0 + 1 + 1,
then 2 + 1 + 2, the 1 being `s[2]` after the second swap. -/
theorem test_key_schedule :
    ([0#8, 1#8, 2#8].foldl (scheduleStep key07) (identityTable, 0#8)).2 = 5#8 ∧
      byteAt ([0#8, 1#8, 2#8].foldl (scheduleStep key07) (identityTable, 0#8)).1 2#8 = 5#8 := by decide +kernel

/-- BV4KEY: refused when the key would pass the end of memory, the old stream kept (43_bv4.md R131). -/
theorem test_bv4key_refused : (after (exec .bv4key (bench 0xFF9#32 0#32 warmed)) State.reset).status.toWord = 0x239#32 := by
  decide +kernel

/-- The BV4 cells 43_bv4.md R147 names, at the start of its trace. -/
def traced : Bv4 where
  s := setByteAt (setByteAt (setByteAt identityTable 133#8 0xAF#8) 239#8 0x04#8) 179#8 0x8A#8
  i := 132#8
  j := 64#8
  h := 0xD5D0C4CD#32
  y := (Vector.replicate 32 0#32).set 19 0xD25F2630#32

/-- BV4CRYPT: the traced word step of 43_bv4.md R147. -/
theorem test_word_step :
    nextStreamWord traced = 0x428A1682#32 ∧ (nextStream traced).h = 0xA82FEAFD#32 ∧
      byteAt (nextStream traced).s 179#8 = 0xBA#8 ∧ (nextStream traced).i = 133#8 ∧ (nextStream traced).j = 239#8 := by
  decide +kernel

/-- BV4CRYPT: RF4 and RF4b of 95_test_vectors.md. -/
theorem test_bv4crypt_status :
    (after (exec .bv4crypt (bench 0#32 6#32 warmed)) State.reset).status.toWord = 0x237#32 ∧
      (after (exec .bv4crypt (bench 0#32 12#32 warmed)) State.reset).status.toWord = 0x330#32 := by decide +kernel

/-- CSMOD: MD3 of 95_test_vectors.md. -/
theorem test_csmod :
    (after (exec .csmod (seeded 0#32 8#32 [(3, 1#8), (7, 2#8)])) State.reset).resHi = 0xAE#32 ∧
      (after (exec .csmod (seeded 0#32 8#32 [(3, 1#8), (7, 2#8)])) State.reset).resLo = 0x91#32 := by decide +kernel

/-- CSMOD: RF5c of 95_test_vectors.md, the sum of address and length does not wrap. -/
theorem test_csmod_no_wrap :
    (after (exec .csmod (bench 0xFFFFFFFC#32 8#32 loaded)) State.reset).status.toWord = 0x39#32 := by decide +kernel

/-! ### Witnesses: the hypotheses of each statement are met together -/

theorem witness_DecodeAndEncodeAreInverse : ∀ i ∈ [Instr.ldkey, .csmod], i.wellFormed = true := by decide

theorem witness_IllegalWordIsRefused : ∀ n ∈ [0x00, 0x03, 0x13, 0x31, 0x110, 0xFFFFFFFF],
    (queued [.wr 0 (BitVec.ofNat 32 n)]).pending = .wr 0 (BitVec.ofNat 32 n) :: [] ∧
      BitVec.ofNat 32 n ∉ [0x01#32, 0x02#32, 0x10#32, 0x11#32, 0x12#32, 0x20#32, 0x21#32, 0x30#32] := by decide

theorem witness_StepRunsTheDecodedCommand :
    (queued [.wr 0 0x30#32]).pending = .wr 0 0x30#32 :: [] ∧ decode 0x30#32 = .ok .csmod := by decide

theorem witness_CoreIdlesWithoutAMove : (queued []).pending = [] := rfl

theorem witness_HostWriteStoresOneRegister : ∀ idx ∈ [2, 3, 4, 5, 6, 7, 8],
    (queued [.wr idx 0xFFFFFFFF#32]).pending = .wr idx 0xFFFFFFFF#32 :: [] := by decide

theorem witness_HostReadReturnsTheRegister : ∀ idx ∈ [1, 2, 3, 4, 5, 6, 7, 8, 9, 10],
    (queued [.rd idx]).pending = .rd idx :: [] ∧
      ∃ v, (idx, v) ∈ [(1, (queued [.rd idx]).status.toWord), (2, (queued [.rd idx]).addr),
        (3, (queued [.rd idx]).len), (4, (queued [.rd idx]).seedHi), (5, (queued [.rd idx]).seedLo),
        (6, (queued [.rd idx]).kc), (7, (queued [.rd idx]).kd), (8, (queued [.rd idx]).ke),
        (9, (queued [.rd idx]).resHi), (10, (queued [.rd idx]).resLo)] := by
  intro idx h
  refine ⟨rfl, 0#32, ?_⟩
  revert idx
  decide

theorem witness_OperandRegisterReadsBackAsWritten : ∀ idx ∈ [2, 8], 2 ≤ idx ∧ idx ≤ 8 ∧
    (queued [.wr idx 7#32, .rd idx]).pending = .wr idx 7#32 :: .rd idx :: [] := by decide

theorem witness_UndefinedRegisterMovesAreRefused :
    (∀ idx ∈ [1, 9, 10, 11], (queued [.wr idx 0#32]).pending = .wr idx 0#32 :: [] ∧ (idx = 1 ∨ 9 ≤ idx)) ∧
    ∀ idx ∈ [0, 11], (queued [.rd idx]).pending = .rd idx :: [] ∧ (idx = 0 ∨ 11 ≤ idx) := by decide

theorem witness_HostMemoryWriteStores :
    (queued [.memwr 0xFFE [1#8, 2#8]]).mem.wf ∧
      (queued [.memwr 0xFFE [1#8, 2#8]]).pending = .memwr 0xFFE [1#8, 2#8] :: [] ∧
      0xFFE + [1#8, 2#8].length ≤ (queued [.memwr 0xFFE [1#8, 2#8]]).memSize := by decide

theorem witness_HostMemoryReadReturnsTheBytes :
    (queued [.memrd 0xFFE 2]).pending = .memrd 0xFFE 2 :: [] ∧ 0xFFE + 2 ≤ (queued [.memrd 0xFFE 2]).memSize := by decide

theorem witness_HostMemoryAccessOutsideIsRefused :
    ((queued [.memwr 0xFFF [1#8, 2#8]]).pending = .memwr 0xFFF [1#8, 2#8] :: [] ∧ [1#8, 2#8] ≠ [] ∧
      (queued [.memwr 0xFFF [1#8, 2#8]]).memSize < 0xFFF + [1#8, 2#8].length) ∧
    ((queued [.memrd 0x1000 1]).pending = .memrd 0x1000 1 :: [] ∧ 1 ≠ 0 ∧
      (queued [.memrd 0x1000 1]).memSize < 0x1000 + 1) := by decide

theorem witness_ResetMoveClearsStatusAndKeepsMemory : (queued [.reset]).pending = .reset :: [] := rfl

theorem witness_CommandLinesRunAsTheirExpansions :
    (queued (scriptAt .penc 8#32)).pending = scriptAt .penc 8#32 ++ [] ∧
      (queued (scriptOver .csmod 0#32 8#32)).pending = scriptOver .csmod 0#32 8#32 ++ [] := by decide

theorem witness_OperandLinesRunAsTheirExpansions :
    (queued (scriptSetSeed 0x1_00000002#64)).pending = scriptSetSeed 0x1_00000002#64 ++ [] ∧
      (queued (scriptSetKeys 5#32 7#32 11#32)).pending = scriptSetKeys 5#32 7#32 11#32 ++ [] ∧
      (queued (scriptSeedFromRes State.reset)).pending =
        scriptSeedFromRes (queued (scriptSeedFromRes State.reset)) ++ [] := by decide +kernel

/-- A permutation table, i = 132, phase WarmedUp: the case of the invariant that is not idle. -/
def settled : State :=
  { bench 0#32 8#32 warmed with bv4 := { traced with s := identityTable }, pending := [.wr 0 0x21#32] }

theorem byteAt_identityTable (x : Byte) : byteAt identityTable x = x := by
  simp [byteAt, identityTable]

theorem settled_inv : settled.Inv where
  memWf := by decide
  memBelow := by decide
  errCode := by decide
  phaseSettled := by decide
  warmIndex := fun _ => rfl
  warmTable := fun _ => by
    rw [isPermutation, show byteAt settled.bv4.s = id from funext byteAt_identityTable]
    exact Function.bijective_id

theorem witness_StepKeepsTheInvariant : settled.Inv ∧ ∃ t, step settled = .next t := ⟨settled_inv, _, rfl⟩

theorem witness_LegalScriptsRunOn :
    (queued [.memwr 0xFFF [1#8], .wr 0 0#32, .rd 10, .memrd 0 0x1000, .reset, .wr 0 0x30#32]).legalScript := by
  unfold State.legalScript
  decide

/-- An accepted command, for the statements about every command that answers a next state. -/
theorem witness_accepted (i : Instr) : ∃ t, exec i (bench 0xF00#32 8#32 warmed) = .next t ∧ t.status.err = false := by
  cases i <;> exact ⟨_, rfl, rfl⟩

/-- A refused command, for RefusedCommandWritesErrAndEcodeOnly and the refused clauses of the others. -/
theorem witness_RefusedCommandWritesErrAndEcodeOnly (i : Instr) :
    ∃ t, exec i (bench 0x1001#32 8#32 warmed) = .next t ∧ t.status.err = true := by
  cases i <;> exact ⟨_, rfl, rfl⟩

/-- Both clauses of CommandPassingItsChecksCompletes, at the last address that fits and the first that does not. -/
theorem witness_CommandPassingItsChecksCompletes :
    passesChecks .penc (bench 0xFF8#32 8#32 warmed) ∧ ¬ passesChecks .penc (bench 0xFF9#32 8#32 warmed) ∧
    passesChecks .cbcmac (bench 0xFF8#32 8#32 warmed) ∧ ¬ passesChecks .cbcmac (bench 0xFF8#32 16#32 warmed) ∧
    passesChecks .bv4crypt (bench 0x1000#32 0#32 warmed) ∧ ¬ passesChecks .bv4crypt (bench 0x1001#32 0#32 warmed) ∧
    passesChecks .csmod (bench 0xFF8#32 8#32 warmed) ∧ ¬ passesChecks .csmod (bench 0xFF8#32 7#32 warmed) := by
  unfold passesChecks
  decide

theorem witness_CommandsKeepTheOperandRegisters : ∃ t, exec .csmod (bench 0xFF8#32 8#32 warmed) = .next t := ⟨_, rfl⟩

/-- A command that may not write the result, and a refused one that otherwise may. -/
theorem witness_OnlyMacCommandsWriteTheResult :
    (∃ t, exec .penc (bench 0xFF8#32 8#32 warmed) = .next t ∧ Instr.penc ≠ .cbcmac ∧ Instr.penc ≠ .csmod) ∧
    ∃ t, exec .csmod (bench 0xFF9#32 8#32 warmed) = .next t ∧ t.status.err = true :=
  ⟨⟨_, rfl, by decide, by decide⟩, _, rfl, rfl⟩

theorem witness_OnlyLoadsWriteKeyMaterial :
    (∃ t, exec .ldkey (bench 0xFF9#32 0#32 loaded) = .next t ∧ t.status.err = true) ∧
    ∃ t, exec .ldsbox (bench 0xF01#32 0#32 loaded) = .next t ∧ t.status.err = true := ⟨⟨_, rfl, rfl⟩, _, rfl, rfl⟩

theorem witness_OnlyBv4CommandsWriteTheStream :
    (∃ t, exec .bv4key (bench 0xFF9#32 0#32 warmed) = .next t ∧ t.status.err = true) ∧
    ∃ t, exec .bv4crypt (bench 0xFFC#32 4#32 warmed) = .next t ∧ Instr.bv4crypt ≠ .bv4key :=
  ⟨⟨_, rfl, rfl⟩, _, rfl, by decide⟩

/-- A refused store, and the addresses just outside the operand of an accepted one. -/
theorem witness_StoresStayInsideTheOperand :
    (∃ t, exec .penc (bench 0xFF9#32 0#32 loaded) = .next t ∧ t.status.err = true) ∧
    (∃ t, exec .penc (bench 0x10#32 0#32 loaded) = .next t ∧ t.status.err = false) ∧
    (bench 0x10#32 0#32 loaded).mem.wf ∧ ¬ inOperand .penc (bench 0x10#32 0#32 loaded) 0x0F ∧
    ¬ inOperand .penc (bench 0x10#32 0#32 loaded) 0x18 := by
  refine ⟨⟨_, rfl, rfl⟩, ⟨_, rfl, rfl⟩, by decide, ?_, ?_⟩ <;> unfold inOperand <;> decide

theorem witness_ValidFlagsFollowTheLoads : ∃ t, exec .ldkey (bench 0xFF8#32 0#32 Status.cleared) = .next t := ⟨_, rfl⟩

/-- One state for each case of the phase. -/
theorem witness_PhaseFollowsItsTransitions :
    (∃ t, exec .bv4crypt (bench 0#32 4#32 Status.cleared) = .next t ∧ t.status.err = true) ∧
    (∃ t, exec .bv4key (bench 0xFF8#32 0#32 Status.cleared) = .next t ∧ t.status.err = false) ∧
    (∃ t, exec .bv4crypt (bench 0#32 4#32 warmed) = .next t ∧ t.status.err = false) ∧
    ∃ t, exec .bv4crypt (bench 0#32 0#32 warmed) = .next t ∧ t.status.err = false :=
  ⟨⟨_, rfl, rfl⟩, ⟨_, rfl, rfl⟩, ⟨_, rfl, rfl⟩, _, rfl, rfl⟩

theorem witness_WordsInMemoryAreBigEndian : Memory.wf [(0, 1#8), (3, 2#8)] := by decide

theorem witness_EqualReadsMeanEqualMemories :
    Memory.wf [(0, 1#8)] ∧ Memory.wf (Memory.write [(0, 1#8), (5, 2#8)] 5 0#8) ∧
      ∀ a, Memory.read [(0, 1#8)] a = Memory.read (Memory.write [(0, 1#8), (5, 2#8)] 5 0#8) a :=
  ⟨by decide, by decide, fun _ => rfl⟩

theorem witness_LdkeyLoadsTheKey :
    (bench 0xFF8#32 0#32 loaded).addr.toNat + 8 ≤ (bench 0xFF8#32 0#32 loaded).memSize ∧
      (bench 0xFF9#32 0#32 loaded).memSize < (bench 0xFF9#32 0#32 loaded).addr.toNat + 8 := by decide

theorem witness_LdsboxLoadsTheSbox :
    (bench 0xF00#32 0#32 loaded).addr.toNat + 256 ≤ (bench 0xF00#32 0#32 loaded).memSize ∧
      (bench 0xF01#32 0#32 loaded).memSize < (bench 0xF01#32 0#32 loaded).addr.toNat + 256 := by decide

theorem witness_EncryptRoundChainsItsSteps : ∀ i ∈ [1, 6], 1 ≤ i ∧ i ≤ 6 := by decide

/-- The three clauses of PencEncryptsTheBlockInPlace and PdecDecryptsTheBlockInPlace. -/
theorem witness_PencEncryptsTheBlockInPlace :
    ((bench 0xFF8#32 0#32 loaded).mem.wf ∧ (bench 0xFF8#32 0#32 loaded).status.kv = true ∧
      (bench 0xFF8#32 0#32 loaded).status.sv = true ∧
      (bench 0xFF8#32 0#32 loaded).addr.toNat + 8 ≤ (bench 0xFF8#32 0#32 loaded).memSize) ∧
    ((bench 0xFF8#32 0#32 { loaded with kv := false }).status.kv = false ∨
      (bench 0xFF8#32 0#32 { loaded with kv := false }).status.sv = false) ∧
    ((bench 0xFF8#32 0#32 { loaded with sv := false }).status.kv = false ∨
      (bench 0xFF8#32 0#32 { loaded with sv := false }).status.sv = false) ∧
    ((bench 0xFF9#32 0#32 loaded).status.kv = true ∧ (bench 0xFF9#32 0#32 loaded).status.sv = true ∧
      (bench 0xFF9#32 0#32 loaded).memSize < (bench 0xFF9#32 0#32 loaded).addr.toNat + 8) := by decide

theorem witness_PdecDecryptsTheBlockInPlace :
    ((bench 0#32 0#32 loaded).mem.wf ∧ (bench 0#32 0#32 loaded).status.kv = true ∧
      (bench 0#32 0#32 loaded).status.sv = true ∧
      (bench 0#32 0#32 loaded).addr.toNat + 8 ≤ (bench 0#32 0#32 loaded).memSize) ∧
    ((bench 0#32 0#32 Status.cleared).status.kv = false ∨ (bench 0#32 0#32 Status.cleared).status.sv = false) ∧
    ((bench 0xFFFFFFFF#32 0#32 loaded).status.kv = true ∧ (bench 0xFFFFFFFF#32 0#32 loaded).status.sv = true ∧
      (bench 0xFFFFFFFF#32 0#32 loaded).memSize < (bench 0xFFFFFFFF#32 0#32 loaded).addr.toNat + 8) := by decide

theorem witness_PencAndPdecRestoreMemory :
    (keyed 0xFF8#32 0#32).mem.wf ∧ (keyed 0xFF8#32 0#32).status.kv = true ∧ (keyed 0xFF8#32 0#32).status.sv = true ∧
      (keyed 0xFF8#32 0#32).addr.toNat + 8 ≤ (keyed 0xFF8#32 0#32).memSize := by decide

/-- The four clauses of CbcmacChainsTheBlocks: the shortest buffer, nothing loaded, lengths 0, 7 and 12, one block too
far. -/
theorem witness_CbcmacChainsTheBlocks :
    ((keyed 0xFF8#32 8#32).status.kv = true ∧ (keyed 0xFF8#32 8#32).status.sv = true ∧
      8 ≤ (keyed 0xFF8#32 8#32).len.toNat ∧ (keyed 0xFF8#32 8#32).len.toNat % 8 = 0 ∧
      (keyed 0xFF8#32 8#32).addr.toNat + (keyed 0xFF8#32 8#32).len.toNat ≤ (keyed 0xFF8#32 8#32).memSize) ∧
    ((bench 0#32 8#32 Status.cleared).status.kv = false ∨ (bench 0#32 8#32 Status.cleared).status.sv = false) ∧
    (∀ n ∈ [0, 7, 12], (keyed 0#32 (BitVec.ofNat 32 n)).status.kv = true ∧
      (keyed 0#32 (BitVec.ofNat 32 n)).status.sv = true ∧
      ((keyed 0#32 (BitVec.ofNat 32 n)).len.toNat < 8 ∨ (keyed 0#32 (BitVec.ofNat 32 n)).len.toNat % 8 ≠ 0)) ∧
    ((keyed 0xFF8#32 16#32).status.kv = true ∧ (keyed 0xFF8#32 16#32).status.sv = true ∧
      8 ≤ (keyed 0xFF8#32 16#32).len.toNat ∧ (keyed 0xFF8#32 16#32).len.toNat % 8 = 0 ∧
      (keyed 0xFF8#32 16#32).memSize < (keyed 0xFF8#32 16#32).addr.toNat + (keyed 0xFF8#32 16#32).len.toNat) := by
  decide

theorem witness_OneBlockMacIsOneEncryption :
    (keyed 0xFF8#32 8#32).status.kv = true ∧ (keyed 0xFF8#32 8#32).status.sv = true ∧ (keyed 0xFF8#32 8#32).len = 8#32 ∧
      (keyed 0xFF8#32 8#32).addr.toNat + 8 ≤ (keyed 0xFF8#32 8#32).memSize := by decide

theorem witness_Bv4keyKeysTheStream :
    (bench 0xFF8#32 0#32 loaded).addr.toNat + 8 ≤ (bench 0xFF8#32 0#32 loaded).memSize ∧
      (bench 0xFF9#32 0#32 loaded).memSize < (bench 0xFF9#32 0#32 loaded).addr.toNat + 8 := by decide

/-- The same key bytes at two places, under two different streams. -/
theorem witness_RekeyingForgetsTheOldStream :
    (settled.addr.toNat + 8 ≤ settled.memSize ∧
      (seeded 0xFF8#32 0#32 [(3, 1#8)]).addr.toNat + 8 ≤ (seeded 0xFF8#32 0#32 [(3, 1#8)]).memSize) ∧
    ∀ i < 8, Memory.read settled.mem (settled.addr.toNat + i) =
      Memory.read (seeded 0xFF8#32 0#32 [(3, 1#8)]).mem ((seeded 0xFF8#32 0#32 [(3, 1#8)]).addr.toNat + i) := by
  decide +kernel

/-- The numbers of 43_bv4.md R147: i = 133, j = 239, t = 179. -/
theorem witness_WordStepFollowsTheOutputStage :
    (bench 0#32 4#32 warmed).mem.wf ∧
      133#8 = traced.i + 1#8 ∧ 239#8 = traced.j + byteAt traced.s 133#8 ∧
      ∃ T1 : Byte → Byte, (∀ x, T1 x = byteAt traced.s (Equiv.swap 133#8 239#8 x)) ∧ 179#8 = T1 133#8 + T1 239#8 :=
  ⟨by decide, by decide +kernel, by decide +kernel, fun x => byteAt traced.s (Equiv.swap 133#8 239#8 x), fun _ => rfl,
    by decide +kernel⟩

/-- The four clauses of Bv4cryptXorsTheKeystream: both phases, lengths 0 and up to the end, Idle and KeyScheduled,
length 6, and an empty buffer above the end. -/
theorem witness_Bv4cryptXorsTheKeystream :
    ((bench 0x1000#32 0#32 warmed).mem.wf ∧
      ((bench 0x1000#32 0#32 warmed).status.bv4ph = .warmedUp ∨ (bench 0x1000#32 0#32 warmed).status.bv4ph = .streaming) ∧
      (bench 0x1000#32 0#32 warmed).len.toNat % 4 = 0 ∧
      (bench 0x1000#32 0#32 warmed).addr.toNat + (bench 0x1000#32 0#32 warmed).len.toNat ≤
        (bench 0x1000#32 0#32 warmed).memSize) ∧
    ((bench 0xFFC#32 4#32 streaming).mem.wf ∧
      ((bench 0xFFC#32 4#32 streaming).status.bv4ph = .warmedUp ∨
        (bench 0xFFC#32 4#32 streaming).status.bv4ph = .streaming) ∧
      (bench 0xFFC#32 4#32 streaming).len.toNat % 4 = 0 ∧
      (bench 0xFFC#32 4#32 streaming).addr.toNat + (bench 0xFFC#32 4#32 streaming).len.toNat ≤
        (bench 0xFFC#32 4#32 streaming).memSize) ∧
    ((bench 0#32 4#32 loaded).status.bv4ph ≠ .warmedUp ∧ (bench 0#32 4#32 loaded).status.bv4ph ≠ .streaming) ∧
    ((bench 0#32 4#32 { loaded with bv4ph := .keyScheduled }).status.bv4ph ≠ .warmedUp ∧
      (bench 0#32 4#32 { loaded with bv4ph := .keyScheduled }).status.bv4ph ≠ .streaming) ∧
    (((bench 0#32 6#32 warmed).status.bv4ph = .warmedUp ∨ (bench 0#32 6#32 warmed).status.bv4ph = .streaming) ∧
      (bench 0#32 6#32 warmed).len.toNat % 4 ≠ 0) ∧
    (((bench 0x1001#32 0#32 warmed).status.bv4ph = .warmedUp ∨ (bench 0x1001#32 0#32 warmed).status.bv4ph = .streaming) ∧
      (bench 0x1001#32 0#32 warmed).len.toNat % 4 = 0 ∧
      (bench 0x1001#32 0#32 warmed).memSize <
        (bench 0x1001#32 0#32 warmed).addr.toNat + (bench 0x1001#32 0#32 warmed).len.toNat) := by decide

theorem witness_KeystreamIgnoresTheBuffer :
    (bench 0xFF8#32 8#32 warmed).mem.wf ∧ Memory.wf [(0xFF8, 1#8)] ∧ passesChecks .bv4crypt (bench 0xFF8#32 8#32 warmed) := by
  unfold passesChecks
  decide

theorem witness_StreamMayBeSplit :
    passesChecks .bv4crypt (bench 0xFF4#32 12#32 warmed) ∧
      (bench 0xFF4#32 12#32 warmed).len.toNat = (4#32).toNat + (8#32).toNat ∧ (4#32).toNat % 4 = 0 := by
  unfold passesChecks
  decide

/-- Key bytes just after the buffer, and just before it. -/
theorem witness_Bv4IsAnInvolutionUnderOneKey :
    ∀ p ∈ [(0xFF8, 0xFF4), (0xFF4, 0xFFC)],
      (bench 0#32 0#32 Status.cleared).mem.wf ∧
      (BitVec.ofNat 32 p.1).toNat + 8 ≤ (bench 0#32 0#32 Status.cleared).memSize ∧
      (BitVec.ofNat 32 p.2).toNat + (4#32).toNat ≤ (bench 0#32 0#32 Status.cleared).memSize ∧ (4#32).toNat % 4 = 0 ∧
      ((BitVec.ofNat 32 p.1).toNat + 8 ≤ (BitVec.ofNat 32 p.2).toNat ∨
        (BitVec.ofNat 32 p.2).toNat + (4#32).toNat ≤ (BitVec.ofNat 32 p.1).toNat) := by decide

/-- The three clauses of CsmodComputesTheChainSum. -/
theorem witness_CsmodComputesTheChainSum :
    (8 ≤ (bench 0xFF8#32 8#32 loaded).len.toNat ∧ (bench 0xFF8#32 8#32 loaded).len.toNat % 8 = 0 ∧
      (bench 0xFF8#32 8#32 loaded).addr.toNat + (bench 0xFF8#32 8#32 loaded).len.toNat ≤
        (bench 0xFF8#32 8#32 loaded).memSize) ∧
    (∀ n ∈ [0, 7, 12],
      (bench 0#32 (BitVec.ofNat 32 n) loaded).len.toNat < 8 ∨
        (bench 0#32 (BitVec.ofNat 32 n) loaded).len.toNat % 8 ≠ 0) ∧
    (8 ≤ (bench 0xFF9#32 8#32 loaded).len.toNat ∧ (bench 0xFF9#32 8#32 loaded).len.toNat % 8 = 0 ∧
      (bench 0xFF9#32 8#32 loaded).memSize <
        (bench 0xFF9#32 8#32 loaded).addr.toNat + (bench 0xFF9#32 8#32 loaded).len.toNat) := by decide

/-- For CsmodResultsAreBelowP and CsmodAlgebraicForm. -/
theorem witness_CsmodResultsAreBelowP : passesChecks .csmod (seeded 0xFF8#32 8#32 []) := by
  unfold passesChecks
  decide

theorem witness_CsmodAlgebraicForm : passesChecks .csmod (seeded 0#32 0x1000#32 [(3, 1#8)]) := by
  unfold passesChecks
  decide

/-- MD3 and MD5 of 95_test_vectors.md: words that differ in bit 31 only. -/
theorem witness_CsmodIgnoresBit31OfEachWord :
    passesChecks .csmod (seeded 0#32 8#32 [(3, 1#8), (7, 2#8)]) ∧
    ∀ k < (seeded 0#32 8#32 [(3, 1#8), (7, 2#8)]).len.toNat / 4,
      Memory.read32 (seeded 0#32 8#32 [(3, 1#8), (7, 2#8)]).mem
          ((seeded 0#32 8#32 [(3, 1#8), (7, 2#8)]).addr.toNat + 4 * k) &&& 0x7FFFFFFF#32 =
        Memory.read32 [(0, 0x80#8), (3, 1#8), (4, 0x80#8), (7, 2#8)]
          ((seeded 0#32 8#32 [(3, 1#8), (7, 2#8)]).addr.toNat + 4 * k) &&& 0x7FFFFFFF#32 := by
  unfold passesChecks
  decide +kernel

/-- MD9 of 95_test_vectors.md, and `KC` = 0. -/
theorem witness_CsmodWithZeroKcFixesResLo :
    ∀ n ∈ [0, 0x7FFFFFFF],
      passesChecks .csmod { seeded 0#32 8#32 [(3, 1#8), (7, 2#8)] with kc := BitVec.ofNat 32 n } ∧
      { seeded 0#32 8#32 [(3, 1#8), (7, 2#8)] with kc := BitVec.ofNat 32 n }.kc.toNat % 2147483647 = 0 := by
  unfold passesChecks
  decide

end Sys2Proof.Tests
end

/-! SUPPORT. What the decoder accepts: a word decodes to a command exactly when it is that command's word
(30_encoding.md R74, R81). The argument goes by the two fields of R71: `RSV` and `OPC` make up the word. -/

namespace Sys2Proof.Machine

/-- `CommandWord.Statement` for every instruction, from its one lemma per constructor. -/
theorem commandWord_statement (i : Instr) : Laws.CommandWord.Statement i := by
  cases i with
  | ldkey => exact Laws.CommandWord.ldkey
  | ldsbox => exact Laws.CommandWord.ldsbox
  | penc => exact Laws.CommandWord.penc
  | pdec => exact Laws.CommandWord.pdec
  | cbcmac => exact Laws.CommandWord.cbcmac
  | bv4key => exact Laws.CommandWord.bv4key
  | bv4crypt => exact Laws.CommandWord.bv4crypt
  | csmod => exact Laws.CommandWord.csmod

/-- The two fields drop no bit of a word. -/
theorem rsvField_append_opcField (w : Word) : rsvField w ++ opcField w = w := by
  unfold rsvField opcField
  rw [BitVec.extractLsb'_append_extractLsb'_eq_extractLsb' (by rfl)]
  exact BitVec.extractLsb'_eq_self

/-- A word is a command's word when its fields are that word's fields. -/
theorem eq_encode_iff (w : Word) (i : Instr) :
    w = encode i ↔ rsvField w = 0#24 ∧ opcField w = opcode i := by
  constructor
  · rintro rfl
    exact (commandWord_statement i).2
  · rintro ⟨hrsv, hopc⟩
    rw [← rsvField_append_opcField w, hrsv, hopc, encode]

/-- The decoder's opcode map is the inverse of the `OPC` column: it reads each opcode as its own row, and no byte
outside the column as a command. -/
theorem decodeOpcode_eq_ok_iff (o : Byte) (i : Instr) : decodeOpcode o = .ok i ↔ o = opcode i := by
  constructor
  · intro h
    unfold decodeOpcode at h
    split_ifs at h <;> · cases h; assumption
  · rintro rfl
    cases i <;> rfl

/-- The decoder accepts a word by its two fields alone. -/
theorem decode_eq_ok_iff_fields (w : Word) (i : Instr) :
    decode w = .ok i ↔ rsvField w = 0#24 ∧ opcField w = opcode i := by
  unfold decode
  split
  next hrsv => simp [hrsv, decodeOpcode_eq_ok_iff]
  next hrsv => simp [hrsv]

/-- A word decodes to a command exactly when it is the command's word (30_encoding.md R81). -/
theorem decode_eq_ok_iff (w : Word) (i : Instr) : decode w = .ok i ↔ w = encode i :=
  (decode_eq_ok_iff_fields w i).trans (eq_encode_iff w i).symm

/-- The mask of R74 is all ones, so it keeps the word. -/
theorem and_opcodeMask (w : Word) : w &&& 0xFFFFFFFF#32 = w := BitVec.and_allOnes

/-- Match and mask of one row of the opcode map, the row's command word `c` being the encoder's (30_encoding.md R74). -/
theorem decode_eq_ok_iff_masked {i : Instr} {c : Word} (hc : encode i = c) (w : Word) :
    decode w = .ok i ↔ w &&& 0xFFFFFFFF#32 = c := by
  rw [and_opcodeMask, ← hc, decode_eq_ok_iff]

/-- Settles O1: each row's command word is the encoder's, so the row is `decode_eq_ok_iff_masked`. -/
theorem commandWordsMatchTheOpcodeMap : Obligations.CommandWordsMatchTheOpcodeMap := by
  intro w
  have row (i : Instr) := decode_eq_ok_iff_masked (i := i) rfl w
  exact ⟨row .ldkey, row .ldsbox, row .penc, row .pdec, row .cbcmac, row .bv4key, row .bv4crypt, row .csmod⟩

end Sys2Proof.Machine

/-! SUPPORT. The setup commands LDKEY and LDSBOX (40_setup.md): what an accepted and what a refused command leaves, for
any command; the one check of a command with a fixed operand; then R91 and R92. -/

namespace Sys2Proof.Machine

/-- Acceptance as a record update: `ERR` and `ECODE` cleared, nothing else (60_exceptions.md R174). -/
theorem State.accept_eq (s : State) :
    s.accept = { s with status := { s.status with err := false, ecode := .none } } := rfl

/-- Refusal as a record update: `ERR` and `ECODE` set, nothing else (60_exceptions.md R172). -/
theorem State.refuse_eq (s : State) (c : ECode) :
    s.refuse c = { s with status := { s.status with err := true, ecode := c } } := rfl

/-- A command whose checks all pass has its effect on the accepted state (60_exceptions.md R173, R174). -/
theorem exec_of_passesChecks {i : Instr} {s : State} (h : passesChecks i s) :
    exec i s = .next (commandEffect i s s.accept) := by
  rw [exec_eq_attempt, (commandCheck_eq_none_iff i s).2 h, State.attempt_none]

/-- A command whose check fails is refused with the code of the check (60_exceptions.md R172, R173). -/
theorem exec_of_commandCheck {i : Instr} {s : State} {c : ECode} (h : commandCheck i s = c) (hc : c ≠ .none) :
    exec i s = .next (s.refuse c) := by
  rw [exec_eq_attempt, h, State.attempt_refused s hc]

/-- The operand of a command with a fixed number of bytes fails its check when it passes the end of `MEM`
(20_memory.md R57). -/
theorem State.checkFixed_of_outOfRange {s : State} {n : Nat} (h : s.memSize < s.addr.toNat + n) :
    s.checkFixed n = .badAddress := by
  rw [State.checkFixed, (s.inRange_eq_false_iff n).2 h]
  rfl

/-- Settles O32: the accepted case is `loadKey` on the accepted state, the refused case the failing range check. -/
theorem ldkeyLoadsTheKey : Obligations.LdkeyLoadsTheKey := by
  intro s
  constructor
  · intro hpass
    rw [exec_of_passesChecks (i := .ldkey) hpass, commandEffect, loadKey_eq, State.accept_eq]
    rfl
  · intro hout
    rw [exec_of_commandCheck (i := .ldkey) (State.checkFixed_of_outOfRange hout) (by decide), State.refuse_eq]

/-- Settles O33: the accepted case is `loadSbox` on the accepted state, the refused case the failing range check. -/
theorem ldsboxLoadsTheSbox : Obligations.LdsboxLoadsTheSbox := by
  intro s
  constructor
  · intro hpass
    rw [exec_of_passesChecks (i := .ldsbox) hpass, commandEffect, loadSbox_eq, State.accept_eq]
    rfl
  · intro hout
    rw [exec_of_commandCheck (i := .ldsbox) (State.checkFixed_of_outOfRange hout) (by decide), State.refuse_eq]

end Sys2Proof.Machine

/-! SUPPORT. The Parve block cipher (41_parve.md). A round is a chain of in-place steps: step `i` writes byte `i + 1` and
no other step writes that byte, so its value after the round is the one step `i` wrote (R102). A cipher is a chain of
rounds (R103, R106), and PENC and PDEC apply it to the block at `ADDR` (R104, R107). -/

namespace Sys2Proof.Machine

/-! ### One encrypt round -/

/-- The model's rotate by one place is the circular one (00_scope.md R10). -/
theorem rotl8_one (v : Byte) : rotl8 v 1 = v.rotateLeft 1 := rfl

/-- A step leaves every byte but its target. -/
theorem encStep_get_of_ne (k b : Block) (tab : Vector Byte 256) (r : Byte) {p : Fin 8 × Fin 8} {j : Fin 8}
    (h : p.2 ≠ j) : (encStep k tab r b p)[j] = b[j] :=
  Vector.getElem_set_ne _ _ (Fin.val_ne_of_ne h)

/-- What a step writes to its target (41_parve.md R101). -/
theorem encStep_get_target (k b : Block) (tab : Vector Byte 256) (r : Byte) (i j : Fin 8) :
    (encStep k tab r b (i, j))[j] = (b[j] + byteAt tab (k[i] + b[i] + r)).rotateLeft 1 :=
  (Vector.getElem_set_self _).trans (rotl8_one _)

/-- A run of steps leaves every byte that is the target of none. -/
theorem encSteps_get_of_not_target (k : Block) (tab : Vector Byte 256) (r : Byte) {ps : List (Fin 8 × Fin 8)}
    {j : Fin 8} (h : ∀ p ∈ ps, p.2 ≠ j) (b : Block) : (ps.foldl (encStep k tab r) b)[j] = b[j] := by
  induction ps generalizing b with
  | nil => rfl
  | cons p ps ih =>
    obtain ⟨hp, hps⟩ := List.forall_mem_cons.1 h
    rw [List.foldl_cons, ih hps, encStep_get_of_ne k b tab r hp]

/-- Step `i` of an encrypt round goes from byte `i` to byte `i + 1`, after step 7 round to byte 0 (41_parve.md R102). -/
theorem encOrder_split (i : Fin 8) : encOrder = encOrder.take i ++ (i, i + 1) :: encOrder.drop (i + 1) := by
  revert i; decide

/-- Byte `i + 1` is the target of no step but step `i`: every byte is written exactly once (41_parve.md R102). -/
theorem encOrder_target_once (i : Fin 8) :
    (∀ p ∈ encOrder.take i, p.2 ≠ i + 1) ∧ ∀ p ∈ encOrder.drop (i + 1), p.2 ≠ i + 1 := by
  revert i; decide

/-- From step `i` on, byte `i` is the target of no step, save byte 0, which the last step writes. -/
theorem encOrder_source_done (i : Fin 8) (h : i ≠ 0) : ∀ p ∈ encOrder.drop i, p.2 ≠ i := by
  revert i; decide

/-- The block a round has reached when its step `i` begins. -/
def encRoundBefore (k : Block) (tab : Vector Byte 256) (b : Block) (r : Byte) (i : Fin 8) : Block :=
  (encOrder.take i).foldl (encStep k tab r) b

/-- Byte `i + 1` after a round: step `i` writes it, from its old value and from byte `i` as that step finds it. -/
theorem encRound_get_succ (k b : Block) (tab : Vector Byte 256) (r : Byte) (i : Fin 8) :
    (encRound k tab b r)[i + 1] =
      (b[i + 1] + byteAt tab (k[i] + (encRoundBefore k tab b r i)[i] + r)).rotateLeft 1 := by
  obtain ⟨hbefore, hafter⟩ := encOrder_target_once i
  rw [encRound, encOrder_split i, List.foldl_append, List.foldl_cons, encSteps_get_of_not_target k tab r hafter,
    encStep_get_target, encSteps_get_of_not_target k tab r hbefore, encRoundBefore]

/-- Each step but the first finds its source byte as the round leaves it. -/
theorem encRoundBefore_get_source (k b : Block) (tab : Vector Byte 256) (r : Byte) {i : Fin 8} (h : i ≠ 0) :
    (encRoundBefore k tab b r i)[i] = (encRound k tab b r)[i] := by
  conv_rhs => rw [encRound, ← List.take_append_drop i encOrder, List.foldl_append,
    encSteps_get_of_not_target k tab r (encOrder_source_done i h)]
  rfl

/-- The chaining of R102: after the first step, the source byte is the one just written. -/
theorem encRound_get_chained (k b : Block) (tab : Vector Byte 256) (r : Byte) {i : Fin 8} (h : i ≠ 0) :
    (encRound k tab b r)[i + 1] =
      (b[i + 1] + byteAt tab (k[i] + (encRound k tab b r)[i] + r)).rotateLeft 1 := by
  rw [encRound_get_succ, encRoundBefore_get_source k b tab r h]

/-- Settles O34: byte 1 is step 0, which finds `B[0]` unwritten; the bytes 2 to 7 and then byte 0 are chained steps. -/
theorem encryptRoundChainsItsSteps : Obligations.EncryptRoundChainsItsSteps := by
  intro k b tab r
  refine ⟨encRound_get_succ k b tab r 0, fun i hlow hhigh => ?_, encRound_get_chained k b tab r (i := 7) (by decide)⟩
  have hne : (⟨i, by omega⟩ : Fin 8) ≠ 0 := Fin.ne_of_val_ne (Nat.ne_of_gt hlow)
  have hsucc : (⟨i, by omega⟩ + 1 : Fin 8) = ⟨i + 1, by omega⟩ :=
    Fin.ext (Nat.mod_eq_of_lt (show i + 1 < 8 by omega))
  simpa only [hsucc, Fin.getElem_fin] using encRound_get_chained k b tab r hne

/-! ### The rounds of a cipher -/

/-- The block encryption has reached when round `r` begins: the rounds 8 down to `r + 1` are made. At 0 all are. -/
def encBlockAt (k : Block) (tab : Vector Byte 256) (b : Block) (r : Nat) : Block :=
  (encRounds.take (8 - r)).foldl (encRound k tab) b

/-- The block decryption has reached when round `r` is made. -/
def decBlockAt (k : Block) (tab : Vector Byte 256) (b : Block) (r : Nat) : Block :=
  (decRounds.take r).foldl (decRound k tab) b

theorem encRounds_length : encRounds.length = 8 := rfl

theorem decRounds_length : decRounds.length = 8 := rfl

/-- Round `r` of encryption stands at place `8 - r` (41_parve.md R103). -/
theorem encRounds_get {r : Nat} (hlow : 1 ≤ r) (hhigh : r ≤ 8) :
    encRounds[8 - r]'(by rw [encRounds_length]; omega) = BitVec.ofNat 8 r := by
  interval_cases r <;> rfl

/-- Round `r` of decryption stands at place `r - 1` (41_parve.md R106). -/
theorem decRounds_get {r : Nat} (hlow : 1 ≤ r) (hhigh : r ≤ 8) :
    decRounds[r - 1]'(by rw [decRounds_length]; omega) = BitVec.ofNat 8 r := by
  interval_cases r <;> rfl

/-- Encryption makes round `r` on its way from `r` to `r - 1`. -/
theorem encBlockAt_pred (k : Block) (tab : Vector Byte 256) (b : Block) {r : Nat} (hlow : 1 ≤ r) (hhigh : r ≤ 8) :
    encBlockAt k tab b (r - 1) = encRound k tab (encBlockAt k tab b r) (BitVec.ofNat 8 r) := by
  have hplace : 8 - (r - 1) = 8 - r + 1 := by omega
  rw [encBlockAt, encBlockAt, hplace, List.take_succ_eq_append_getElem (by rw [encRounds_length]; omega),
    List.foldl_concat, encRounds_get hlow hhigh]

/-- Decryption makes round `r` on its way from `r - 1` to `r`. -/
theorem decBlockAt_of_pred (k : Block) (tab : Vector Byte 256) (b : Block) {r : Nat} (hlow : 1 ≤ r) (hhigh : r ≤ 8) :
    decBlockAt k tab b r = decRound k tab (decBlockAt k tab b (r - 1)) (BitVec.ofNat 8 r) := by
  calc decBlockAt k tab b r
      _ = decBlockAt k tab b (r - 1 + 1) := by rw [Nat.sub_add_cancel hlow]
      _ = decRound k tab (decBlockAt k tab b (r - 1)) (BitVec.ofNat 8 r) := by
        rw [decBlockAt, decBlockAt, List.take_succ_eq_append_getElem (by rw [decRounds_length]; omega),
          List.foldl_concat, decRounds_get hlow hhigh]

/-- Settles O36: the sequences are the blocks reached between the rounds. -/
theorem parveRunsItsRoundsInOrder : Obligations.ParveRunsItsRoundsInOrder := by
  intro k b tab
  exact ⟨⟨encBlockAt k tab b, rfl, fun _ => encBlockAt_pred k tab b, rfl⟩,
    ⟨decBlockAt k tab b, rfl, fun _ => decBlockAt_of_pred k tab b, rfl⟩⟩

/-! ### The block commands PENC and PDEC -/

/-- A block written at `a` and read back: byte i at `a + i` (20_memory.md R52). -/
theorem Memory.read_writeBlock {m : Memory} (h : m.wf) (a : Nat) (b : Block) (i : Fin 8) :
    (m.writeBytes a b.toList).read (a + i) = b[i] := by
  rw [Memory.read_writeBytes h, if_pos (Nat.le_add_right _ _), Nat.add_sub_cancel_left]
  simp [List.getD_eq_getElem?_getD]

/-- A block written at `a` changes no byte outside its eight. -/
theorem Memory.read_writeBlock_outside {m : Memory} (h : m.wf) {a x : Nat} (b : Block) (hx : x < a ∨ a + 8 ≤ x) :
    (m.writeBytes a b.toList).read x = m.read x := by
  rw [Memory.read_writeBytes h]
  split
  · rw [List.getD_eq_default]
    rw [Vector.length_toList]
    omega
  · rfl

/-- A block command lacks its input unless both the key and the S-box are loaded (60_exceptions.md R173). -/
theorem State.checkBlock_of_notLoaded {s : State} (h : s.status.kv = false ∨ s.status.sv = false) :
    s.checkBlock = .missingInput := by
  have hready : s.status.parveReady = false := by
    rcases h with h | h <;> simp [Status.parveReady, h]
  rw [State.checkBlock, hready]
  rfl

/-- With its input loaded, a block command fails its check when its eight bytes pass the end of `MEM`
(60_exceptions.md R173, 20_memory.md R57). -/
theorem State.checkBlock_of_outOfRange {s : State} (hkv : s.status.kv = true) (hsv : s.status.sv = true)
    (h : s.memSize < s.addr.toNat + 8) : s.checkBlock = .badAddress := by
  rw [State.checkBlock, (Status.parveReady_iff _).2 ⟨hkv, hsv⟩, (s.inRange_eq_false_iff 8).2 h]
  rfl

section BlockCommand
/-! A command that makes the check of PENC and PDEC and whose effect replaces the block at `ADDR` by its value under
`f`: PENC with `parveEnc`, PDEC with `parveDec` (41_parve.md R104, R107). -/

variable {i : Instr} {f : Block → Block} {s : State}

/-- Accepted, it replaces the eight bytes at `ADDR` by their block under `f` and changes nothing else. -/
theorem exec_blockCommand_accepted (heffect : commandEffect i s = transformBlock f) (hpass : passesChecks i s)
    (hwf : s.mem.wf) :
    ∃ t, exec i s = .next t ∧
      (∀ n : Fin 8, Memory.read t.mem (s.addr.toNat + n.val) = (f (s.mem.readArray s.addr.toNat 8))[n]) ∧
      (∀ x, x < s.addr.toNat ∨ s.addr.toNat + 8 ≤ x → Memory.read t.mem x = Memory.read s.mem x) ∧
      { t with mem := s.mem } = { s with status := { s.status with err := false, ecode := .none } } := by
  refine ⟨_, exec_of_passesChecks hpass, ?_⟩
  rw [heffect, transformBlock_eq, State.accept_eq]
  exact ⟨Memory.read_writeBlock hwf _ _, fun _ => Memory.read_writeBlock_outside hwf _, rfl⟩

/-- Without a key or without an S-box it is refused with MISSING_INPUT. -/
theorem exec_blockCommand_notLoaded (hcheck : commandCheck i s = s.checkBlock)
    (h : s.status.kv = false ∨ s.status.sv = false) :
    exec i s = .next { s with status := { s.status with err := true, ecode := .missingInput } } := by
  rw [exec_of_commandCheck (hcheck.trans (State.checkBlock_of_notLoaded h)) (by decide), State.refuse_eq]

/-- With both loaded and its eight bytes past the end of `MEM` it is refused with BAD_ADDRESS. -/
theorem exec_blockCommand_outOfRange (hcheck : commandCheck i s = s.checkBlock) (hkv : s.status.kv = true)
    (hsv : s.status.sv = true) (h : s.memSize < s.addr.toNat + 8) :
    exec i s = .next { s with status := { s.status with err := true, ecode := .badAddress } } := by
  rw [exec_of_commandCheck (hcheck.trans (State.checkBlock_of_outOfRange hkv hsv h)) (by decide), State.refuse_eq]

end BlockCommand

/-- Settles O39: PENC is the block command of `parveEnc`. -/
theorem pencEncryptsTheBlockInPlace : Obligations.PencEncryptsTheBlockInPlace := by
  intro s
  refine ⟨fun hwf hkv hsv hrange => ?_, exec_blockCommand_notLoaded rfl, exec_blockCommand_outOfRange rfl⟩
  exact exec_blockCommand_accepted (i := .penc) rfl ⟨⟨hkv, hsv⟩, hrange⟩ hwf

/-- Settles O40: PDEC is the block command of `parveDec`. -/
theorem pdecDecryptsTheBlockInPlace : Obligations.PdecDecryptsTheBlockInPlace := by
  intro s
  refine ⟨fun hwf hkv hsv hrange => ?_, exec_blockCommand_notLoaded rfl, exec_blockCommand_outOfRange rfl⟩
  exact exec_blockCommand_accepted (i := .pdec) rfl ⟨⟨hkv, hsv⟩, hrange⟩ hwf

end Sys2Proof.Machine

/-! SUPPORT. Parve-CBC-MAC and the command CBCMAC (42_cbcmac.md). The blocks of a buffer in two pieces are the blocks of
the first piece and then those of the second, and the chain goes over them in that order: this is the prefix law
(R124), and with a second piece of one block it is the recurrence of the chain (R122). -/

namespace Sys2Proof.Machine

/-! ### The blocks of a buffer -/

/-- The blocks of a buffer of `n + l` blocks: the first `n`, then the `l` that begin `8 * n` bytes on
(30_encoding.md R77). -/
theorem Memory.readBlocks_add (m : Memory) (a n l : Nat) :
    m.readBlocks a (n + l) = m.readBlocks a n ++ m.readBlocks (a + 8 * n) l := by
  induction n generalizing a with
  | zero => simp [Memory.readBlocks]
  | succ n ih =>
    have hcount : n + 1 + l = n + l + 1 := by omega
    have hstart : a + 8 + 8 * n = a + 8 * (n + 1) := by omega
    rw [hcount, Memory.readBlocks, ih, hstart, Memory.readBlocks, List.cons_append]

/-- A block of memory absorbed by XOR, byte by byte (42_cbcmac.md R120). -/
theorem xorBlock_readArray (b : Block) (m : Memory) (a : Nat) :
    xorBlock b (m.readArray a 8) = Vector.ofFn fun i : Fin 8 => b[i] ^^^ m.read (a + i.val) := by
  ext i hi
  simp [xorBlock, Memory.readArray_get]

/-! ### The chain -/

/-- Chaining over two lists of blocks: the second goes on from where the first stopped (42_cbcmac.md R124). -/
theorem cbcMacFrom_append (k : Block) (tab : Vector Byte 256) (c : Block) (xs ys : List Block) :
    cbcMacFrom k tab c (xs ++ ys) = cbcMacFrom k tab (cbcMacFrom k tab c xs) ys := List.foldl_append

/-- Settles O43: the buffer's blocks are those of its two pieces, and the chain goes on over the second piece. -/
theorem cbcMacOfABufferInTwoPieces : Obligations.CbcMacOfABufferInTwoPieces := by
  intro k tab m a n l
  rw [Memory.readBlocks_add, parveCbcMac, cbcMacFrom_append, parveCbcMac]

/-- Chaining over a buffer of one block absorbs that block and encrypts (42_cbcmac.md R121). -/
theorem cbcMacFrom_readBlocks_one (k : Block) (tab : Vector Byte 256) (b : Block) (m : Memory) (a : Nat) :
    cbcMacFrom k tab b (m.readBlocks a 1) =
      parveEnc k tab (Vector.ofFn fun i : Fin 8 => b[i] ^^^ m.read (a + i.val)) := by
  rw [Memory.readBlocks, Memory.readBlocks, cbcMacFrom, List.foldl_cons, List.foldl_nil, cbcAbsorb, xorBlock_readArray]

/-- The chaining block after the first `q` blocks of the buffer at `a`. -/
def chainBlockAt (k : Block) (tab : Vector Byte 256) (m : Memory) (a q : Nat) : Block :=
  parveCbcMac k tab (m.readBlocks a q)

/-- The chain begins with the zero block (42_cbcmac.md R120). -/
theorem chainBlockAt_zero_get (k : Block) (tab : Vector Byte 256) (m : Memory) (a : Nat) (i : Fin 8) :
    (chainBlockAt k tab m a 0)[i] = 0#8 := Vector.getElem_replicate _

/-- The chain absorbs block `q` by XOR and encrypts: the prefix law with a second piece of one block. -/
theorem chainBlockAt_succ (k : Block) (tab : Vector Byte 256) (m : Memory) (a q : Nat) :
    chainBlockAt k tab m a (q + 1) = parveEnc k tab
      (Vector.ofFn fun i : Fin 8 => (chainBlockAt k tab m a q)[i] ^^^ m.read (a + 8 * q + i.val)) := by
  rw [chainBlockAt, cbcMacOfABufferInTwoPieces, cbcMacFrom_readBlocks_one, chainBlockAt]

/-! ### The check of CBCMAC, and its effect -/

/-- The key or the S-box missing makes the Parve commands' input check fail (60_exceptions.md R173). -/
theorem Status.parveReady_of_notLoaded {st : Status} (h : st.kv = false ∨ st.sv = false) : st.parveReady = false := by
  rcases h with h | h <;> simp [Status.parveReady, h]

/-- A length below one block or not of whole blocks fails the length check (20_memory.md R55). -/
theorem blockLength_eq_false_iff (n : Nat) : blockLength n = false ↔ n < 8 ∨ n % 8 ≠ 0 := by
  rw [← Bool.not_eq_true, blockLength_iff]
  omega

/-- The input is checked first (60_exceptions.md R173). -/
theorem State.checkCbcmac_of_notLoaded {s : State} (h : s.status.kv = false ∨ s.status.sv = false) :
    s.checkCbcmac = .missingInput := by
  rw [State.checkCbcmac, Status.parveReady_of_notLoaded h]
  rfl

/-- With its input loaded, the length is checked next (60_exceptions.md R173). -/
theorem State.checkCbcmac_of_badLength {s : State} (hkv : s.status.kv = true) (hsv : s.status.sv = true)
    (h : s.len.toNat < 8 ∨ s.len.toNat % 8 ≠ 0) : s.checkCbcmac = .badLength := by
  rw [State.checkCbcmac, (Status.parveReady_iff _).2 ⟨hkv, hsv⟩, State.bytes, (blockLength_eq_false_iff _).2 h]
  rfl

/-- The range is checked last (60_exceptions.md R173, 20_memory.md R57). -/
theorem State.checkCbcmac_of_outOfRange {s : State} (hkv : s.status.kv = true) (hsv : s.status.sv = true)
    (hlen : 8 ≤ s.len.toNat ∧ s.len.toNat % 8 = 0) (h : s.memSize < s.addr.toNat + s.len.toNat) :
    s.checkCbcmac = .badAddress := by
  rw [State.checkCbcmac, (Status.parveReady_iff _).2 ⟨hkv, hsv⟩, State.bytes, (blockLength_iff _).2 hlen,
    (s.inRange_eq_false_iff _).2 h]
  rfl

/-- CBCMAC delivers the chaining block after the `LEN/8` blocks at `ADDR`, sets `RV` and changes nothing else
(42_cbcmac.md R122). -/
theorem macBuffer_eq (s : State) :
    macBuffer s =
      { s with
        resHi := blockHi (chainBlockAt s.key s.sbox s.mem s.addr.toNat (s.len.toNat / 8))
        resLo := blockLo (chainBlockAt s.key s.sbox s.mem s.addr.toNat (s.len.toNat / 8))
        status := { s.status with rv := true } } := deliverBlock_eq _ s

/-- Settles O42: the sequence is the chaining blocks of the buffer; the refusals are the three checks in their order. -/
theorem cbcmacChainsTheBlocks : Obligations.CbcmacChainsTheBlocks := by
  intro s
  refine ⟨fun hkv hsv hlow hwhole hrange => ?_, fun hinput => ?_, fun hkv hsv hlen => ?_,
    fun hkv hsv hlow hwhole hout => ?_⟩
  · refine ⟨chainBlockAt s.key s.sbox s.mem s.addr.toNat, chainBlockAt_zero_get _ _ _ _,
      fun q _ => chainBlockAt_succ _ _ _ _ q, ?_⟩
    rw [exec_of_passesChecks (i := .cbcmac) ⟨⟨hkv, hsv⟩, ⟨hlow, hwhole⟩, hrange⟩, commandEffect, macBuffer_eq,
      State.accept_eq]
    rfl
  · rw [exec_of_commandCheck (i := .cbcmac) (State.checkCbcmac_of_notLoaded hinput) (by decide), State.refuse_eq]
  · rw [exec_of_commandCheck (i := .cbcmac) (State.checkCbcmac_of_badLength hkv hsv hlen) (by decide), State.refuse_eq]
  · rw [exec_of_commandCheck (i := .cbcmac) (State.checkCbcmac_of_outOfRange hkv hsv ⟨hlow, hwhole⟩ hout) (by decide),
      State.refuse_eq]

end Sys2Proof.Machine

/-! SUPPORT. The BV4 stream cipher as commands (43_bv4.md): BV4KEY (R131), one word step of the output stage (R141) and
BV4CRYPT as a run of word steps (R139). A word step reads and writes its own word only, so step n of a run finds word n
as the run found it. -/

namespace Sys2Proof.Machine

/-! ### BV4KEY -/

/-- Settles O48: the accepted case is `keyStream` on the accepted state, the refused case the failing range check. -/
theorem bv4keyKeysTheStream : Obligations.Bv4keyKeysTheStream := by
  intro s
  constructor
  · intro hpass
    rw [exec_of_passesChecks (i := .bv4key) hpass, commandEffect, keyStream_eq, State.accept_eq]
    rfl
  · intro hout
    rw [exec_of_commandCheck (i := .bv4key) (State.checkFixed_of_outOfRange hout) (by decide), State.refuse_eq]

/-! ### Words in memory -/

/-- The bytes of a word, most significant first, make up the word (00_scope.md R11). -/
theorem be32_unbe32 (w : Word) :
    be32 (w.extractLsb' 24 8) (w.extractLsb' 16 8) (w.extractLsb' 8 8) (w.extractLsb' 0 8) = w := by
  unfold be32
  rw [BitVec.extractLsb'_append_extractLsb'_eq_extractLsb' (by rfl),
    BitVec.extractLsb'_append_extractLsb'_eq_extractLsb' (by rfl),
    BitVec.extractLsb'_append_extractLsb'_eq_extractLsb' (by rfl)]
  exact BitVec.extractLsb'_eq_self

/-- A word written at `a`, byte by byte: byte `k` of its big-endian form at `a + k` (20_memory.md R51). -/
theorem Memory.read_write32_inside {m : Memory} (h : m.wf) (a : Nat) (w : Word) {k : Nat} (hk : k < 4) :
    (m.write32 a w).read (a + k) = (unbe32 w)[k] := by
  rw [Memory.write32, Memory.read_writeBytes h, if_pos (Nat.le_add_right _ _), Nat.add_sub_cancel_left,
    List.getD_eq_getElem _ _ hk]

/-- A word written at `a` reads back (20_memory.md R51). -/
theorem Memory.read32_write32 {m : Memory} (h : m.wf) (a : Nat) (w : Word) : (m.write32 a w).read32 a = w := by
  have byte (k : Nat) (hk : k < 4) := Memory.read_write32_inside h a w hk
  calc (m.write32 a w).read32 a
      _ = be32 (unbe32 w)[0] (unbe32 w)[1] (unbe32 w)[2] (unbe32 w)[3] := by
        rw [← byte 0, ← byte 1, ← byte 2, ← byte 3, Nat.add_zero, Memory.read32]
      _ = w := be32_unbe32 w

/-- A word read sees its four bytes only. -/
theorem Memory.read32_congr {m m' : Memory} {a : Nat} (h : ∀ x, a ≤ x → x < a + 4 → m.read x = m'.read x) :
    m.read32 a = m'.read32 a := by
  rw [Memory.read32, Memory.read32, h a (by omega) (by omega), h (a + 1) (by omega) (by omega),
    h (a + 2) (by omega) (by omega), h (a + 3) (by omega) (by omega)]

/-! ### One word step -/

/-- A word step XORs the next keystream word into its word (43_bv4.md R141 step 4). -/
theorem wordStep_read32 {s : State} (h : s.mem.wf) (a : Nat) :
    (wordStep a s).mem.read32 a = s.mem.read32 a ^^^ nextStreamWord s.bv4 :=
  Memory.read32_write32 h a _

/-- A word step leaves every byte outside its word. -/
theorem wordStep_read_outside {s : State} (h : s.mem.wf) {a x : Nat} (hx : x < a ∨ a + 4 ≤ x) :
    (wordStep a s).mem.read x = s.mem.read x :=
  Memory.read_write32_outside h _ hx

/-- Apart from memory and the BV4 registers a word step writes the phase alone. -/
theorem wordStep_eq_except (a : Nat) (s : State) :
    { wordStep a s with mem := s.mem, bv4 := s.bv4 } =
      { s with status := { s.status with bv4ph := .streaming } } := by
  rw [wordStep_eq]

/-- Settles O50: T1 is the table `rc4Advance` leaves and t is its `rc4Index`, so each step of the output stage is the
law of the field it writes. -/
theorem wordStepFollowsTheOutputStage : Obligations.WordStepFollowsTheOutputStage := by
  rintro a s u i j t T1 hwf rfl rfl rfl hT1 ht
  obtain rfl : T1 = byteAt (rc4Advance s.bv4).s :=
    funext fun x => (hT1 x).trans (byteAt_rc4Advance s.bv4 x).symm
  obtain rfl : t = rc4Index (rc4Advance s.bv4) := ht
  exact ⟨rfl, rfl, rfl, wordStep_read32 hwf a, fun _ => wordStep_read_outside hwf, nextStream_h s.bv4,
    byteAt_nextStream s.bv4, wordStep_eq_except a s⟩

/-! ### A run of word steps -/

/-- Word n of a run is XORed with the keystream word of the n-th BV4 state: the steps before it and after it leave the
word as it is (43_bv4.md R139). -/
theorem wordSteps_read32 {s : State} (h : s.mem.wf) (a : Nat) {n count : Nat} (hn : n < count) :
    (wordSteps count a s).mem.read32 (a + 4 * n) =
      s.mem.read32 (a + 4 * n) ^^^ nextStreamWord (nextStream^[n] s.bv4) := by
  induction count generalizing a n s with
  | zero => exact absurd hn (Nat.not_lt_zero n)
  | succ count ih =>
    have hwf : (wordStep a s).mem.wf := Memory.write32_wf h a _
    rw [wordSteps]
    cases n with
    | zero =>
      calc (wordSteps count (a + 4) (wordStep a s)).mem.read32 a
          _ = (wordStep a s).mem.read32 a :=
            Memory.read32_congr fun x _ hx => wordSteps_read_outside hwf count (a + 4) (.inl hx)
          _ = s.mem.read32 a ^^^ nextStreamWord s.bv4 := wordStep_read32 h a
    | succ n =>
      have hplace : a + 4 * (n + 1) = a + 4 + 4 * n := by omega
      have hword : (wordStep a s).mem.read32 (a + 4 + 4 * n) = s.mem.read32 (a + 4 + 4 * n) :=
        Memory.read32_congr fun x hx _ => wordStep_read_outside h (.inr (by omega))
      rw [hplace, ih hwf (a + 4) (Nat.lt_of_succ_lt_succ hn), hword, Function.iterate_succ_apply]
      rfl

/-- Apart from memory and the BV4 registers a run writes the phase alone: Streaming, once there is a word. -/
theorem wordSteps_eq_except (n a : Nat) (s : State) :
    { wordSteps n a s with mem := s.mem, bv4 := s.bv4 } =
      { s with status := { s.status with bv4ph := if n = 0 then s.status.bv4ph else .streaming } } := by
  obtain ⟨m, b, p, hframe⟩ := wordSteps_frame n a s
  have hphase := wordSteps_phase n a s
  rw [hframe] at hphase
  rw [hframe, ← hphase]

/-! ### BV4CRYPT -/

/-- Without a keystream the input check fails (60_exceptions.md R173). -/
theorem State.checkCrypt_of_notReady {s : State} (hwarm : s.status.bv4ph ≠ .warmedUp)
    (hstream : s.status.bv4ph ≠ .streaming) : s.checkCrypt = .missingInput := by
  have hready : s.status.streamReady = false := by
    rw [← Bool.not_eq_true, Status.streamReady_iff]
    exact not_or.2 ⟨hwarm, hstream⟩
  rw [State.checkCrypt, hready]
  rfl

/-- With a keystream, the length is checked next (60_exceptions.md R173). -/
theorem State.checkCrypt_of_badLength {s : State} (hready : s.status.bv4ph = .warmedUp ∨ s.status.bv4ph = .streaming)
    (h : s.len.toNat % 4 ≠ 0) : s.checkCrypt = .badLength := by
  have hlen : wordLength s.bytes = false := by
    rw [← Bool.not_eq_true, wordLength_iff]
    exact h
  rw [State.checkCrypt, (Status.streamReady_iff _).2 hready, hlen]
  rfl

/-- The range is checked last (60_exceptions.md R173, 20_memory.md R57). -/
theorem State.checkCrypt_of_outOfRange {s : State} (hready : s.status.bv4ph = .warmedUp ∨ s.status.bv4ph = .streaming)
    (hlen : s.len.toNat % 4 = 0) (h : s.memSize < s.addr.toNat + s.len.toNat) : s.checkCrypt = .badAddress := by
  rw [State.checkCrypt, (Status.streamReady_iff _).2 hready, State.bytes, (wordLength_iff _).2 hlen,
    (s.inRange_eq_false_iff _).2 h]
  rfl

/-- An accepted BV4CRYPT is a run of `LEN/4` word steps from `ADDR` on the accepted state (43_bv4.md R139). -/
theorem exec_bv4crypt_accepted {s : State} (h : passesChecks .bv4crypt s) :
    exec .bv4crypt s = .next (wordSteps (s.len.toNat / 4) s.addr.toNat s.accept) :=
  exec_of_passesChecks h

/-- Settles O51: the sequence x is the iterates of `nextStream`, the accepted case the laws of a run of word steps; the
refusals are the three checks in their order. -/
theorem bv4cryptXorsTheKeystream : Obligations.Bv4cryptXorsTheKeystream := by
  intro s
  refine ⟨fun hwf hready hlen hrange => ?_, fun hwarm hstream => ?_, fun hready hlen => ?_,
    fun hready hlen hout => ?_⟩
  · have hbytes : 4 * (s.len.toNat / 4) = s.len.toNat := Nat.mul_div_cancel' (Nat.dvd_of_mod_eq_zero hlen)
    have hwfAccept : s.accept.mem.wf := hwf
    have hempty : s.len.toNat / 4 = 0 ↔ s.len.toNat = 0 := by omega
    refine ⟨fun n => nextStream^[n] s.bv4, _, rfl, fun n _ => Function.iterate_succ_apply' _ n _,
      exec_bv4crypt_accepted ⟨hready, hlen, hrange⟩, wordSteps_bv4 _ _ _, fun n => wordSteps_read32 hwfAccept _,
      fun x hx => wordSteps_read_outside hwfAccept _ _ (by rwa [hbytes]), ?_⟩
    simp only [← hempty]
    exact wordSteps_eq_except (s.len.toNat / 4) s.addr.toNat s.accept
  · rw [exec_of_commandCheck (i := .bv4crypt) (State.checkCrypt_of_notReady hwarm hstream) (by decide),
      State.refuse_eq]
  · rw [exec_of_commandCheck (i := .bv4crypt) (State.checkCrypt_of_badLength hready hlen) (by decide),
      State.refuse_eq]
  · rw [exec_of_commandCheck (i := .bv4crypt) (State.checkCrypt_of_outOfRange hready hlen hout) (by decide),
      State.refuse_eq]

end Sys2Proof.Machine

/-! SUPPORT. The two directions of the command-word code (30_encoding.md R81), from the decoder's one law
`decode_eq_ok_iff`. -/

namespace Sys2Proof.Machine

/-- Settles O3: the decoder accepts a command's word and no other, so nothing is lost either way. -/
theorem decodeAndEncodeAreInverse : Obligations.DecodeAndEncodeAreInverse := by
  intro i w _
  rw [decode_eq_ok_iff, eq_comm]

/-- The encoder's words are the eight of the opcode map (30_encoding.md R74). -/
theorem encode_mem_commandWords (i : Instr) :
    encode i ∈ [0x01#32, 0x02#32, 0x10#32, 0x11#32, 0x12#32, 0x20#32, 0x21#32, 0x30#32] := by
  cases i <;> decide

/-- A word with `RSV` = 0 is rejected for its opcode alone (30_encoding.md R79). -/
theorem decode_of_rsvField_zero {w : Word} (h : rsvField w = 0#24) : decode w = decodeOpcode (opcField w) := if_pos h

/-- A word with a reserved bit set is rejected for that (30_encoding.md R71). -/
theorem decode_of_rsvField_ne_zero {w : Word} (h : rsvField w ≠ 0#24) : decode w = .error .reservedNotZero := if_neg h

/-- Settles O2: the eight words are the encoder's; of the five others two have a reserved bit set, and the opcode of
three is none of the eight. -/
theorem sampleWordsDecode : Obligations.SampleWordsDecode := by
  have row (i : Instr) {w : Word} (h : w = encode i) : decode w = .ok i := (decode_eq_ok_iff w i).2 h
  exact ⟨row .ldkey rfl, row .ldsbox rfl, row .penc rfl, row .pdec rfl, row .cbcmac rfl, row .bv4key rfl,
    row .bv4crypt rfl, row .csmod rfl, decode_of_rsvField_zero (by decide), decode_of_rsvField_zero (by decide),
    decode_of_rsvField_zero (by decide), decode_of_rsvField_ne_zero (by decide),
    decode_of_rsvField_ne_zero (by decide)⟩

end Sys2Proof.Machine

/-! SUPPORT. Keying the BV4 stream (43_bv4.md R131 to R134): the key schedule and the warm-up as sequences of tables
and indices, the permutation they keep, and that they read nothing of the stream before. -/

namespace Sys2Proof.Machine

/-! ### The table stays a permutation -/

theorem byteAt_identityTable (x : Byte) : byteAt identityTable x = x := by
  simp [byteAt, identityTable]

theorem identityTable_isPermutation : isPermutation identityTable := by
  have h : byteAt identityTable = id := funext byteAt_identityTable
  rw [isPermutation, h]
  exact Function.bijective_id

/-- A swap keeps a permutation (10_state.md R29). -/
theorem swapAt_isPermutation {tab : Vector Byte 256} (h : isPermutation tab) (i j : Byte) :
    isPermutation (swapAt tab i j) := by
  have hswap : byteAt (swapAt tab i j) = byteAt tab ∘ Equiv.swap i j := funext (byteAt_swapAt tab i j)
  rw [isPermutation, hswap]
  exact h.comp (Equiv.swap i j).bijective

/-- Schedule steps keep a permutation. -/
theorem scheduleSteps_isPermutation (key : Vector Byte 8) (ks : List Byte) {sj : Vector Byte 256 × Byte}
    (h : isPermutation sj.1) : isPermutation (ks.foldl (scheduleStep key) sj).1 := by
  induction ks generalizing sj with
  | nil => exact h
  | cons k ks ih => exact ih (swapAt_isPermutation h _ _)

/-- The key schedule leaves a permutation, whatever the key (43_bv4.md R132). -/
theorem scheduleTable_isPermutation (key : Vector Byte 8) : isPermutation (scheduleTable key) :=
  scheduleSteps_isPermutation key _ identityTable_isPermutation

/-- Index updates keep a permutation (43_bv4.md R133). -/
theorem rc4Advances_isPermutation {b : Bv4} (h : isPermutation b.s) (n : Nat) :
    isPermutation (rc4Advance^[n] b).s := by
  induction n with
  | zero => exact h
  | succ n ih =>
    rw [Function.iterate_succ_apply']
    exact swapAt_isPermutation ih _ _

/-- n index updates take `i` on by n. -/
theorem rc4Advances_i (n : Nat) (b : Bv4) : (rc4Advance^[n] b).i = b.i + BitVec.ofNat 8 n := by
  induction n with
  | zero => simp
  | succ n ih => rw [Function.iterate_succ_apply', rc4Advance_i, ih, BitVec.add_assoc, BitVec.ofNat_add]

theorem warmUp_isPermutation {b : Bv4} (h : isPermutation b.s) : isPermutation (warmUp b).s := by
  rw [warmUp_s, rc4Bytes_state]
  exact rc4Advances_isPermutation h 132

/-- The warm-up after the key schedule ends at `i` = 132 (43_bv4.md R134). -/
theorem warmUp_keySchedule_i (key : Vector Byte 8) (b : Bv4) : (warmUp (keySchedule key b)).i = 132#8 := by
  rw [warmUp_i, rc4Bytes_state, rc4Advances_i, keySchedule_i, BitVec.zero_add]

/-- Settles O47: the schedule begins with the identity and both parts only swap cells. -/
theorem keyedStreamIsAPermutation : Obligations.KeyedStreamIsAPermutation := by
  intro key b
  have hscheduled : isPermutation (keySchedule key b).s := by
    rw [keySchedule_s]
    exact scheduleTable_isPermutation key
  exact ⟨hscheduled, warmUp_isPermutation hscheduled, warmUp_keySchedule_i key b⟩

/-! ### The key schedule step by step -/

/-- The table and the index `j` after the first n schedule steps. -/
def scheduledAt (key : Vector Byte 8) (n : Nat) : Vector Byte 256 × Byte :=
  (scheduleIndices.take n).foldl (scheduleStep key) (identityTable, 0#8)

theorem scheduleIndices_length : scheduleIndices.length = 256 := by
  rw [scheduleIndices, List.length_map, List.length_range]

/-- Step k of the schedule has the index k. -/
theorem scheduledAt_succ (key : Vector Byte 8) {k : Nat} (h : k < 256) :
    scheduledAt key (k + 1) = scheduleStep key (scheduledAt key k) (BitVec.ofNat 8 k) := by
  have hk : scheduleIndices[k]'(by rwa [scheduleIndices_length]) = BitVec.ofNat 8 k := by
    simp only [scheduleIndices, List.getElem_map, List.getElem_range]
  rw [scheduledAt, List.take_succ_eq_append_getElem (by rwa [scheduleIndices_length]), List.foldl_concat, hk,
    scheduledAt]

/-- All 256 steps make the schedule. -/
theorem scheduledAt_256 (key : Vector Byte 8) : (scheduledAt key 256).1 = scheduleTable key := by
  rw [scheduledAt, List.take_of_length_le scheduleIndices_length.le, scheduleTable]

/-- The key byte of step k: `key[k mod 8]` (43_bv4.md R132). -/
theorem scheduleStep_j (key : Vector Byte 8) (sj : Vector Byte 256 × Byte) {k : Nat} (h : k < 256) :
    (scheduleStep key sj (BitVec.ofNat 8 k)).2 = sj.2 + byteAt sj.1 (BitVec.ofNat 8 k) + key[k % 8] := by
  have hk : (BitVec.ofNat 8 k).toNat = k := Nat.mod_eq_of_lt h
  simp only [scheduleStep, hk]

/-- A schedule step swaps cell k with the cell of the new `j`. -/
theorem byteAt_scheduleStep (key : Vector Byte 8) (sj : Vector Byte 256 × Byte) (k x : Byte) :
    byteAt (scheduleStep key sj k).1 x = byteAt sj.1 (Equiv.swap k (scheduleStep key sj k).2 x) :=
  byteAt_swapAt _ _ _ _

/-- Settles O45: the sequences are the tables and indices after each schedule step. -/
theorem keyScheduleFollowsItsRecurrence : Obligations.KeyScheduleFollowsItsRecurrence := by
  intro key b
  refine ⟨fun k => byteAt (scheduledAt key k).1, fun k => (scheduledAt key k).2, byteAt_identityTable, rfl,
    fun k hk => ?_, fun x => ?_, keySchedule_i key b, keySchedule_j key b, keySchedule_h key b, keySchedule_y key b⟩
  · simp only [scheduledAt_succ key hk]
    exact ⟨scheduleStep_j key _ hk, byteAt_scheduleStep key _ _⟩
  · simp only [scheduledAt_256, keySchedule_s]

/-! ### The warm-up step by step -/

/-- Output byte m: the cell of the index (R133), read after index update m + 1. -/
def outputByte (b : Bv4) (m : Nat) : Byte := byteAt (rc4Advance^[m + 1] b).s (rc4Index (rc4Advance^[m + 1] b))

/-- `rc4Bytes` lists the output bytes in order (43_bv4.md R133). -/
theorem rc4Bytes_getD {n m : Nat} (h : m < n) (b : Bv4) (d : Byte) : (rc4Bytes n b).1.getD m d = outputByte b m := by
  induction n generalizing m b with
  | zero => exact absurd h (Nat.not_lt_zero m)
  | succ n ih =>
    cases m with
    | zero => rfl
    | succ m =>
      rw [rc4Bytes, List.getD_cons_succ, ih (Nat.lt_of_succ_lt_succ h), outputByte, outputByte,
        Function.iterate_succ_apply _ (m + 1)]

/-- A word of the warm-up's output is four output bytes, big-endian (43_bv4.md R134). -/
theorem wordAt_rc4Bytes {n p : Nat} (h : p + 3 < n) (b : Bv4) :
    wordAt (rc4Bytes n b).1 p =
      outputByte b p ++ outputByte b (p + 1) ++ outputByte b (p + 2) ++ outputByte b (p + 3) := by
  rw [wordAt, rc4Bytes_getD (by omega), rc4Bytes_getD (by omega), rc4Bytes_getD (by omega), rc4Bytes_getD h, be32]

/-- Settles O46: the sequences are the tables and indices after each index update, and the output bytes. -/
theorem warmUpFollowsItsRecurrence : Obligations.WarmUpFollowsItsRecurrence := by
  intro b
  refine ⟨fun m => byteAt (rc4Advance^[m] b).s, fun m => (rc4Advance^[m] b).i, fun m => (rc4Advance^[m] b).j,
    outputByte b, fun _ => rfl, rfl, rfl, fun m _ => ?_, ?_, ?_, fun x => ?_, ?_, fun m => ?_⟩
  · simp only [outputByte, Function.iterate_succ_apply']
    exact ⟨rc4Advance_i _, rc4Advance_j _, byteAt_rc4Advance _, rfl⟩
  · rw [warmUp_i, rc4Bytes_state]
  · rw [warmUp_j, rc4Bytes_state]
  · rw [warmUp_s, rc4Bytes_state]
  · rw [warmUp_h, wordAt_rc4Bytes (by omega)]
  · rw [warmUp_y, wordAt_rc4Bytes (by omega), Nat.add_right_comm 4 _ 1, Nat.add_right_comm 4 _ 2,
      Nat.add_right_comm 4 _ 3]

/-! ### Keying reads nothing of the stream before -/

/-- Output bytes, table and indices do not depend on `h` and `y`, which pass through unchanged. -/
theorem rc4Bytes_with_hy (n : Nat) (b : Bv4) (h : Word) (y : Vector Word 32) :
    rc4Bytes n { b with h := h, y := y } = ((rc4Bytes n b).1, { (rc4Bytes n b).2 with h := h, y := y }) := by
  induction n generalizing b with
  | zero => rfl
  | succ n ih =>
    have hadvance : rc4Advance { b with h := h, y := y } = { rc4Advance b with h := h, y := y } := rfl
    simp only [rc4Bytes, hadvance, ih]
    rfl

/-- The warm-up writes `h` and `y` without reading them (43_bv4.md R134). -/
theorem warmUp_with_hy (b : Bv4) (h : Word) (y : Vector Word 32) : warmUp { b with h := h, y := y } = warmUp b := by
  simp only [warmUp, rc4Bytes_with_hy]

/-- Keying forgets the stream before: the schedule writes `s`, `i`, `j`, the warm-up `h` and `y` (43_bv4.md R131). -/
theorem warmUp_keySchedule_congr (key : Vector Byte 8) (b b' : Bv4) :
    warmUp (keySchedule key b) = warmUp (keySchedule key b') :=
  warmUp_with_hy (keySchedule key b') b.h b.y

/-- An accepted BV4KEY as a record update (43_bv4.md R131). -/
theorem exec_bv4key_accepted {s : State} (h : s.addr.toNat + 8 ≤ s.memSize) :
    exec .bv4key s = .next { s with
      status := { s.status with err := false, ecode := .none, bv4ph := .warmedUp }
      bv4 := warmUp (keySchedule (s.mem.readArray s.addr.toNat 8) s.bv4) } :=
  (bv4keyKeysTheStream s).1 h

/-- A register array read from memory depends on its bytes alone (20_memory.md R52). -/
theorem Memory.readArray_congr {m m' : Memory} {a a' n : Nat} (h : ∀ i < n, m.read (a + i) = m'.read (a' + i)) :
    m.readArray a n = m'.readArray a' n := by
  ext i hi
  rw [Memory.readArray_get, Memory.readArray_get, h i hi]

/-- Settles O49: both commands read the same key, and keying forgets the rest. -/
theorem rekeyingForgetsTheOldStream : Obligations.RekeyingForgetsTheOldStream := by
  intro s s' hrange hrange' hkey
  refine ⟨_, _, exec_bv4key_accepted hrange, exec_bv4key_accepted hrange', ?_, rfl⟩
  calc warmUp (keySchedule (s.mem.readArray s.addr.toNat 8) s.bv4)
      _ = warmUp (keySchedule (s'.mem.readArray s'.addr.toNat 8) s.bv4) := by rw [Memory.readArray_congr hkey]
      _ = warmUp (keySchedule (s'.mem.readArray s'.addr.toNat 8) s'.bv4) := warmUp_keySchedule_congr _ _ _

end Sys2Proof.Machine

/-! SUPPORT. What any command writes and what it leaves (60_exceptions.md R172 to R175, 10_state.md R23 to R37,
20_memory.md R56): each field once for the effects of all commands, then for a command accepted or refused. -/

namespace Sys2Proof.Machine

/-! ### Refused or accepted -/

/-- Settles O20: of the two forms of a next state the one with `ERR` = 1 is the refusal. -/
theorem refusedCommandWritesErrAndEcodeOnly : Obligations.RefusedCommandWritesErrAndEcodeOnly := by
  intro i s t h herr
  rcases exec_next_cases h with ⟨-, -, c, hc, rfl⟩ | ⟨herr', -⟩
  · exact ⟨c, by simpa using hc, State.refuse_eq s c⟩
  · rw [herr] at herr'
    contradiction

/-- A command always answers a next state (60_exceptions.md R175, R186). -/
theorem exec_isNext (i : Instr) (s : State) : ∃ t, exec i s = .next t := ⟨_, exec_eq_attempt i s⟩

/-- Settles O21: passing the checks and failing them are the two forms of a next state. -/
theorem commandPassingItsChecksCompletes : Obligations.CommandPassingItsChecksCompletes := by
  intro i s
  obtain ⟨t, ht⟩ := exec_isNext i s
  constructor
  · intro hpass
    rcases exec_next_cases ht with ⟨-, hfail, -⟩ | ⟨herr, hcode, -⟩
    · exact absurd hpass hfail
    · exact ⟨t, ht, herr, hcode⟩
  · intro hfail
    rcases exec_next_cases ht with ⟨herr, -, c, hc, rfl⟩ | ⟨-, -, hpass, -⟩
    · exact ⟨_, ht, herr, by rcases hc with rfl | rfl | rfl <;> simp⟩
    · exact absurd hpass hfail

/-- A part of the state apart from `STATUS` that some commands' effects leave: one of those commands leaves it, and so
does any refused command. -/
theorem exec_keeps {α : Type} {π : State → α} (hstatus : ∀ s st, π (s.setStatus st) = π s) {others : Prop} {i : Instr}
    {s t : State} (heffect : others → ∀ u, π (commandEffect i s u) = π u) (h : exec i s = .next t)
    (hwho : others ∨ t.status.err = true) : π t = π s := by
  rcases exec_next_cases h with ⟨-, -, c, -, rfl⟩ | ⟨herr, -, -, rfl⟩
  · exact hstatus s _
  · have hothers : others := hwho.resolve_right (by rw [herr]; decide)
    exact (heffect hothers _).trans (hstatus s _)

/-! ### The effects as record updates, then field by field -/

/-- An accepted BV4CRYPT writes memory, the BV4 registers and the phase, and nothing else (43_bv4.md R139). -/
theorem cryptBuffer_eq (s : State) :
    cryptBuffer s =
      { s with
        mem := (wordSteps (s.len.toNat / 4) s.addr.toNat s).mem
        bv4 := nextStream^[s.len.toNat / 4] s.bv4
        status := { s.status with bv4ph := if s.len.toNat / 4 = 0 then s.status.bv4ph else .streaming } } := by
  obtain ⟨m, b, p, hframe⟩ := wordSteps_frame (s.len.toNat / 4) s.addr.toNat s
  have hbv4 := wordSteps_bv4 (s.len.toNat / 4) s.addr.toNat s
  have hphase := wordSteps_phase (s.len.toNat / 4) s.addr.toNat s
  rw [hframe] at hbv4 hphase
  rw [cryptBuffer, State.bytes, State.base, hframe, ← hbv4, ← hphase]

/-- CSMOD delivers the MAC of the `LEN/8` pairs of words at `ADDR`, sets `RV` and changes nothing else
(44_csmod.md R154). -/
theorem chainSum_eq (s : State) :
    chainSum s =
      { s with
        resHi := BitVec.ofNat 32 (csmodMac (csmodKeys s) (s.mem.readPairs s.addr.toNat (s.len.toNat / 8))).sum
        resLo := BitVec.ofNat 32 (csmodMac (csmodKeys s) (s.mem.readPairs s.addr.toNat (s.len.toNat / 8))).mac
        status := { s.status with rv := true } } := deliverAcc_eq _ s

section EffectOfEachCommand

variable (s u : State)

@[simp] theorem commandEffect_ldkey :
    commandEffect .ldkey s u =
      { u with key := u.mem.readArray u.base 8, status := { u.status with kv := true } } := loadKey_eq u

@[simp] theorem commandEffect_ldsbox :
    commandEffect .ldsbox s u =
      { u with sbox := u.mem.readArray u.base 256, status := { u.status with sv := true } } := loadSbox_eq u

@[simp] theorem commandEffect_penc :
    commandEffect .penc s u =
      { u with mem := u.mem.writeBytes u.base (parveEnc s.key s.sbox (u.mem.readArray u.base 8)).toList } :=
  transformBlock_eq _ u

@[simp] theorem commandEffect_pdec :
    commandEffect .pdec s u =
      { u with mem := u.mem.writeBytes u.base (parveDec s.key s.sbox (u.mem.readArray u.base 8)).toList } :=
  transformBlock_eq _ u

@[simp] theorem commandEffect_cbcmac :
    commandEffect .cbcmac s u =
      { u with
        resHi := blockHi (chainBlockAt u.key u.sbox u.mem u.addr.toNat (u.len.toNat / 8))
        resLo := blockLo (chainBlockAt u.key u.sbox u.mem u.addr.toNat (u.len.toNat / 8))
        status := { u.status with rv := true } } := macBuffer_eq u

@[simp] theorem commandEffect_bv4key :
    commandEffect .bv4key s u =
      { u with
        bv4 := warmUp (keySchedule (u.mem.readArray u.base 8) u.bv4)
        status := { u.status with bv4ph := .warmedUp } } := keyStream_eq u

@[simp] theorem commandEffect_bv4crypt :
    commandEffect .bv4crypt s u =
      { u with
        mem := (wordSteps (u.len.toNat / 4) u.addr.toNat u).mem
        bv4 := nextStream^[u.len.toNat / 4] u.bv4
        status := { u.status with bv4ph := if u.len.toNat / 4 = 0 then u.status.bv4ph else .streaming } } :=
  cryptBuffer_eq u

@[simp] theorem commandEffect_csmod :
    commandEffect .csmod s u =
      { u with
        resHi := BitVec.ofNat 32 (csmodMac (csmodKeys u) (u.mem.readPairs u.addr.toNat (u.len.toNat / 8))).sum
        resLo := BitVec.ofNat 32 (csmodMac (csmodKeys u) (u.mem.readPairs u.addr.toNat (u.len.toNat / 8))).mac
        status := { u.status with rv := true } } := chainSum_eq u

end EffectOfEachCommand

/-- No command writes more than `STATUS`, the result pair, the key material, the BV4 registers and memory. -/
theorem commandEffect_frame (i : Instr) (s u : State) :
    ∃ st hi lo k tab b m, commandEffect i s u =
      { u with status := st, resHi := hi, resLo := lo, key := k, sbox := tab, bv4 := b, mem := m } := by
  cases i with
  | ldkey => exact ⟨_, _, _, _, _, _, _, commandEffect_ldkey s u⟩
  | ldsbox => exact ⟨_, _, _, _, _, _, _, commandEffect_ldsbox s u⟩
  | penc => exact ⟨_, _, _, _, _, _, _, commandEffect_penc s u⟩
  | pdec => exact ⟨_, _, _, _, _, _, _, commandEffect_pdec s u⟩
  | cbcmac => exact ⟨_, _, _, _, _, _, _, commandEffect_cbcmac s u⟩
  | bv4key => exact ⟨_, _, _, _, _, _, _, commandEffect_bv4key s u⟩
  | bv4crypt => exact ⟨_, _, _, _, _, _, _, commandEffect_bv4crypt s u⟩
  | csmod => exact ⟨_, _, _, _, _, _, _, commandEffect_csmod s u⟩

/-- Only the MAC commands deliver a result (10_state.md R26). -/
theorem commandEffect_result {i : Instr} (h : i ≠ .cbcmac ∧ i ≠ .csmod) (s u : State) :
    ((commandEffect i s u).resHi, (commandEffect i s u).resLo) = (u.resHi, u.resLo) := by
  obtain ⟨hcbcmac, hcsmod⟩ := h
  cases i
  case cbcmac => exact absurd rfl hcbcmac
  case csmod => exact absurd rfl hcsmod
  all_goals simp

/-- Only LDKEY writes the key (10_state.md R27). -/
theorem commandEffect_key {i : Instr} (h : i ≠ .ldkey) (s u : State) : (commandEffect i s u).key = u.key := by
  cases i
  case ldkey => exact absurd rfl h
  all_goals simp

/-- Only LDSBOX writes the S-box (10_state.md R28). -/
theorem commandEffect_sbox {i : Instr} (h : i ≠ .ldsbox) (s u : State) : (commandEffect i s u).sbox = u.sbox := by
  cases i
  case ldsbox => exact absurd rfl h
  all_goals simp

/-- Only BV4KEY and BV4CRYPT write the BV4 registers (10_state.md R29). -/
theorem commandEffect_bv4 {i : Instr} (h : i ≠ .bv4key ∧ i ≠ .bv4crypt) (s u : State) :
    (commandEffect i s u).bv4 = u.bv4 := by
  obtain ⟨hkey, hcrypt⟩ := h
  cases i
  case bv4key => exact absurd rfl hkey
  case bv4crypt => exact absurd rfl hcrypt
  all_goals simp

/-- Word steps never write `y` (43_bv4.md R142). -/
theorem nextStreams_y (n : Nat) (b : Bv4) : (nextStream^[n] b).y = b.y := by
  induction n with
  | zero => rfl
  | succ n ih => rw [Function.iterate_succ_apply', nextStream_y, ih]

/-- Only BV4KEY writes `y` (43_bv4.md R142). -/
theorem commandEffect_y {i : Instr} (h : i ≠ .bv4key) (s u : State) : (commandEffect i s u).bv4.y = u.bv4.y := by
  by_cases hcrypt : i = .bv4crypt
  · rw [hcrypt, commandEffect_bv4crypt, nextStreams_y]
  · rw [commandEffect_bv4 ⟨h, hcrypt⟩]

/-- Only PENC, PDEC and BV4CRYPT store (20_memory.md R56). -/
theorem commandEffect_mem {i : Instr} (h : i ≠ .penc ∧ i ≠ .pdec ∧ i ≠ .bv4crypt) (s u : State) :
    (commandEffect i s u).mem = u.mem := by
  obtain ⟨hpenc, hpdec, hcrypt⟩ := h
  cases i
  case penc => exact absurd rfl hpenc
  case pdec => exact absurd rfl hpdec
  case bv4crypt => exact absurd rfl hcrypt
  all_goals simp

/-- A storing command stores inside its operand (20_memory.md R56). -/
theorem commandEffect_read_outside {i : Instr} {u : State} (hwf : u.mem.wf) {x : Nat} (hx : ¬ inOperand i u x)
    (s : State) : Memory.read (commandEffect i s u).mem x = Memory.read u.mem x := by
  have hx' : x < u.addr.toNat ∨ u.addr.toNat + operandBytes i u ≤ x := by
    unfold inOperand at hx
    omega
  cases i
  case penc =>
    simp only [commandEffect_penc]
    exact Memory.read_writeBlock_outside hwf _ hx'
  case pdec =>
    simp only [commandEffect_pdec]
    exact Memory.read_writeBlock_outside hwf _ hx'
  case bv4crypt =>
    simp only [commandEffect_bv4crypt]
    have hwords : 4 * (u.len.toNat / 4) ≤ u.len.toNat := Nat.mul_div_le _ 4
    exact wordSteps_read_outside hwf _ _ (hx'.imp_right fun hx' => (Nat.add_le_add_left hwords _).trans hx')
  all_goals rw [commandEffect_mem (by decide)]

/-- The valid flags after an effect: an owner sets its own, the others stay (10_state.md R37). -/
theorem commandEffect_valid (i : Instr) (s u : State) :
    (commandEffect i s u).status.kv = (u.status.kv || decide (i = .ldkey)) ∧
    (commandEffect i s u).status.sv = (u.status.sv || decide (i = .ldsbox)) ∧
    (commandEffect i s u).status.rv = (u.status.rv || (decide (i = .cbcmac) || decide (i = .csmod))) := by
  cases i <;> simp

/-- The phase after an effect (10_state.md R36). -/
theorem commandEffect_phase (i : Instr) (s u : State) :
    (commandEffect i s u).status.bv4ph =
      if i = .bv4key then .warmedUp
      else if i = .bv4crypt ∧ 4 ≤ u.len.toNat then .streaming
      else u.status.bv4ph := by
  cases i
  case bv4crypt =>
    have hwords : u.len.toNat / 4 = 0 ↔ ¬ 4 ≤ u.len.toNat := by omega
    simp only [commandEffect_bv4crypt, hwords, reduceCtorEq, if_false, true_and, ite_not]
  all_goals simp

/-! ### Commands, accepted or refused -/

/-- No command, accepted or refused, writes more than `commandEffect_frame` says. -/
theorem exec_frame {i : Instr} {s t : State} (h : exec i s = .next t) :
    ∃ st hi lo k tab b m,
      t = { s with status := st, resHi := hi, resLo := lo, key := k, sbox := tab, bv4 := b, mem := m } := by
  rcases exec_next_cases h with ⟨-, -, c, -, rfl⟩ | ⟨-, -, -, rfl⟩
  · exact ⟨_, _, _, _, _, _, _, State.refuse_eq s c⟩
  · obtain ⟨st, hi, lo, k, tab, b, m, heffect⟩ := commandEffect_frame i s s.accept
    exact ⟨st, hi, lo, k, tab, b, m, heffect⟩

/-- Settles O22: the frame of a command lists none of these fields. -/
theorem commandsKeepTheOperandRegisters : Obligations.CommandsKeepTheOperandRegisters := by
  intro i s t h
  obtain ⟨st, hi, lo, k, tab, b, m, rfl⟩ := exec_frame h
  exact ⟨rfl, rfl, rfl, rfl, rfl, rfl, rfl, rfl, rfl, rfl, rfl, rfl⟩

/-- Settles O23: the result pair is left by every other effect and by a refusal. -/
theorem onlyMacCommandsWriteTheResult : Obligations.OnlyMacCommandsWriteTheResult := by
  intro i s t h hwho
  exact Prod.mk.inj
    (exec_keeps (π := fun s => (s.resHi, s.resLo)) (fun _ _ => rfl) (fun hi => commandEffect_result hi s) h hwho)

/-- Settles O24: each of `K` and `S` is left by every other effect and by a refusal. -/
theorem onlyLoadsWriteKeyMaterial : Obligations.OnlyLoadsWriteKeyMaterial := by
  intro i s t h
  exact ⟨exec_keeps State.setStatus_key (fun hi => commandEffect_key hi s) h,
    exec_keeps State.setStatus_sbox (fun hi => commandEffect_sbox hi s) h⟩

/-- Settles O25: the BV4 registers, and `y` alone, are left by every other effect and by a refusal. -/
theorem onlyBv4CommandsWriteTheStream : Obligations.OnlyBv4CommandsWriteTheStream := by
  intro i s t h
  exact ⟨exec_keeps State.setStatus_bv4 (fun hi => commandEffect_bv4 hi s) h,
    exec_keeps (π := fun s => s.bv4.y) (fun _ _ => rfl) (fun hi => commandEffect_y hi s) h⟩

/-- Settles O26: memory is left whole by every non-storing effect and by a refusal, and outside its operand by every
effect. -/
theorem storesStayInsideTheOperand : Obligations.StoresStayInsideTheOperand := by
  intro i s t h
  refine ⟨exec_keeps State.setStatus_mem (fun hi => commandEffect_mem hi s) h, fun hwf x hx => ?_⟩
  have hwfAccept : s.accept.mem.wf := hwf
  have hxAccept : ¬ inOperand i s.accept x := by
    cases i <;> exact hx
  rcases exec_next_cases h with ⟨-, -, c, -, rfl⟩ | ⟨-, -, -, rfl⟩
  · rw [State.refuse_mem]
  · rw [commandEffect_read_outside hwfAccept hxAccept, State.accept_mem]

/-- Settles O27: a refusal leaves the three flags, an effect sets its owner's. -/
theorem validFlagsFollowTheLoads : Obligations.ValidFlagsFollowTheLoads := by
  intro i s t h
  rcases exec_next_cases h with ⟨-, -, c, -, rfl⟩ | ⟨herr, -, -, ht⟩
  · simp
  · have hvalid := commandEffect_valid i s s.accept
    rw [← ht] at hvalid
    simpa [herr] using hvalid

/-- Settles O28: a refusal leaves the phase, an effect moves it as `commandEffect_phase` says. -/
theorem phaseFollowsItsTransitions : Obligations.PhaseFollowsItsTransitions := by
  intro i s t h
  rcases exec_next_cases h with ⟨-, -, c, -, rfl⟩ | ⟨herr, -, -, ht⟩
  · simp
  · rw [if_neg (by rw [herr]; decide), ht, commandEffect_phase, State.accept_len, State.accept_status,
      Status.accepted_bv4ph]

end Sys2Proof.Machine

/-! SUPPORT. The host's moves one by one (10_state.md R22, 20_memory.md R50, 30_encoding.md R71, R82), then the script
lines built from them (30_encoding.md R83) and the runs of legal scripts (60_exceptions.md R186). -/

namespace Sys2Proof.Machine

/-! ### Commands issued -/

/-- A command word runs its command (30_encoding.md R71). -/
theorem issueWord_of_decode {w : Word} {i : Instr} (h : decode w = .ok i) (s : State) :
    issueWord w s = exec i (s.setCmd w) := by
  rw [issueWord, h]

/-- The command word the encoder gives runs its command (30_encoding.md R71, R81). -/
theorem issueWord_encode (i : Instr) (s : State) : issueWord (encode i) s = exec i (s.setCmd (encode i)) :=
  issueWord_of_decode ((decode_eq_ok_iff _ i).2 rfl) s

/-- The step that issues a word. -/
theorem step_issue {s : State} {w : Word} {rest : List HostMove} (h : s.pending = .wr 0 w :: rest) :
    step s = issueWord w (s.setPending rest) := step_of_pending h

/-- Settles O5: the step issues the word, and the word runs its command. -/
theorem stepRunsTheDecodedCommand : Obligations.StepRunsTheDecodedCommand := by
  intro s w i rest hpending hdecode
  rw [step_issue hpending, issueWord_of_decode hdecode]
  rfl

/-- Settles O4: a word that decodes would be one of the encoder's eight, so the word issued is refused. -/
theorem illegalWordIsRefused : Obligations.IllegalWordIsRefused := by
  intro s w rest hpending hword
  rw [step_issue hpending]
  rcases issueWord_cases w (s.setPending rest) with ⟨i, hdecode, -⟩ | ⟨e, -, hrefused⟩
  · rw [(decode_eq_ok_iff w i).1 hdecode] at hword
    exact absurd (encode_mem_commandWords i) hword
  · rw [hrefused, State.refuse_eq]
    rfl

/-- Settles O6: the step of an empty list of moves. -/
theorem coreIdlesWithoutAMove : Obligations.CoreIdlesWithoutAMove := by
  intro s h
  rcases step_cases s with ⟨-, hstep⟩ | ⟨m, rest, hpending, -⟩
  · exact hstep
  · rw [h] at hpending
    contradiction

/-! ### Registers -/

/-- `WR` to a register that can be stored to (10_state.md R22, R24). -/
theorem moveWrite_of_writeRegister {s t : State} {idx : Nat} {v : Word} (h : s.writeRegister idx v = some t) :
    moveWrite idx v s = .next t := by
  have hidx : idx ≠ 0 := by
    rintro rfl
    contradiction
  simp only [moveWrite, if_neg hidx, h]

/-- `WR` to an index that is neither `CMD` nor an operand register (93_implementation_defined.md U9). -/
theorem moveWrite_undefined {idx : Nat} (h : idx = 1 ∨ 9 ≤ idx) (v : Word) (s : State) :
    moveWrite idx v s = .refused (.undefinedRegisterWrite idx) := by
  have hidx : idx ≠ 0 := by omega
  have hnone : s.writeRegister idx v = none := by
    rw [← Option.not_isSome_iff_eq_none, State.writeRegister_isSome, Bool.and_eq_true, decide_eq_true_iff,
      decide_eq_true_iff]
    omega
  simp only [moveWrite, if_neg hidx, hnone]

/-- `RD` of a readable register (10_state.md R22). -/
theorem moveRead_of_readRegister {s : State} {idx : Nat} {v : Word} (h : s.readRegister idx = some v) :
    moveRead idx s = .next (s.answer (.word v)) := by
  simp only [moveRead, h]

/-- `RD` of `CMD` or of an index above 10 (93_implementation_defined.md U9). -/
theorem moveRead_undefined {idx : Nat} (h : idx = 0 ∨ 11 ≤ idx) (s : State) :
    moveRead idx s = .refused (.undefinedRegisterRead idx) := by
  have hnone : s.readRegister idx = none := by
    rw [← Option.not_isSome_iff_eq_none, State.readRegister_isSome, hostMayRead, Bool.and_eq_true, decide_eq_true_iff,
      decide_eq_true_iff]
    omega
  simp only [moveRead, hnone]

/-- The step that writes a register. -/
theorem step_write {s t : State} {idx : Nat} {v : Word} {rest : List HostMove} (h : s.pending = .wr idx v :: rest)
    (hwrite : (s.setPending rest).writeRegister idx v = some t) : step s = .next t :=
  (step_of_pending h).trans (moveWrite_of_writeRegister hwrite)

/-- The step that reads a register. -/
theorem step_read {s : State} {idx : Nat} {v : Word} {rest : List HostMove} (h : s.pending = .rd idx :: rest)
    (hread : (s.setPending rest).readRegister idx = some v) :
    step s = .next { s with pending := rest, answers := .word v :: s.answers } :=
  (step_of_pending h).trans (moveRead_of_readRegister hread)

/-- Settles O7: the register write of each of the seven indices. -/
theorem hostWriteStoresOneRegister : Obligations.HostWriteStoresOneRegister := by
  intro s v rest
  exact ⟨fun h => step_write h rfl, fun h => step_write h rfl, fun h => step_write h rfl, fun h => step_write h rfl,
    fun h => step_write h rfl, fun h => step_write h rfl, fun h => step_write h rfl⟩

/-- The readable registers and what they hold (10_state.md R22). -/
theorem State.readRegister_of_mem {s : State} {idx : Nat} {v : Word}
    (h : (idx, v) ∈ [(1, s.status.toWord), (2, s.addr), (3, s.len), (4, s.seedHi), (5, s.seedLo), (6, s.kc), (7, s.kd),
      (8, s.ke), (9, s.resHi), (10, s.resLo)]) : s.readRegister idx = some v := by
  simp only [List.mem_cons, Prod.mk.injEq, List.not_mem_nil, or_false] at h
  rcases h with ⟨rfl, rfl⟩ | ⟨rfl, rfl⟩ | ⟨rfl, rfl⟩ | ⟨rfl, rfl⟩ | ⟨rfl, rfl⟩ | ⟨rfl, rfl⟩ | ⟨rfl, rfl⟩ | ⟨rfl, rfl⟩ |
    ⟨rfl, rfl⟩ | ⟨rfl, rfl⟩ <;> rfl

/-- Settles O8: the register read of each of the ten indices. -/
theorem hostReadReturnsTheRegister : Obligations.HostReadReturnsTheRegister := by
  intro s idx v rest hpending hregister
  exact step_read hpending (State.readRegister_of_mem (s := s.setPending rest) hregister)

/-- A register reads back as written (10_state.md R24). -/
theorem State.readRegister_of_writeRegister {s t : State} {idx : Nat} {v : Word} (h : s.writeRegister idx v = some t) :
    t.readRegister idx = some v := by
  rcases State.writeRegister_cases h with ⟨rfl, rfl⟩ | ⟨rfl, rfl⟩ | ⟨rfl, rfl⟩ | ⟨rfl, rfl⟩ | ⟨rfl, rfl⟩ | ⟨rfl, rfl⟩ |
    ⟨rfl, rfl⟩ <;> rfl

/-- A register write changes operand registers only (10_state.md R24). -/
theorem State.writeRegister_frame {s t : State} {idx : Nat} {v : Word} (h : s.writeRegister idx v = some t) :
    ∃ a n hi lo c d e,
      t = { s with addr := a, len := n, seedHi := hi, seedLo := lo, kc := c, kd := d, ke := e } := by
  rcases State.writeRegister_cases h with ⟨-, rfl⟩ | ⟨-, rfl⟩ | ⟨-, rfl⟩ | ⟨-, rfl⟩ | ⟨-, rfl⟩ | ⟨-, rfl⟩ | ⟨-, rfl⟩ <;>
    exact ⟨_, _, _, _, _, _, _, rfl⟩

/-- Settles O9: a writable index, its write and then its read. -/
theorem operandRegisterReadsBackAsWritten : Obligations.OperandRegisterReadsBackAsWritten := by
  intro s idx v rest hlow hhigh hpending
  have hwritable : ((s.setPending (.rd idx :: rest)).writeRegister idx v).isSome = true := by
    simp [State.writeRegister_isSome, hlow, hhigh]
  obtain ⟨t, hwrite⟩ := Option.isSome_iff_exists.1 hwritable
  have hread := State.readRegister_of_writeRegister hwrite
  have hfirst := step_write hpending hwrite
  obtain ⟨a, n, hi, lo, c, d, e, rfl⟩ := State.writeRegister_frame hwrite
  exact ⟨_, (runSteps_succ_of_step hfirst 1).trans (runSteps_succ_of_step (step_read rfl hread) 0), rfl, rfl⟩

/-- Settles O10: the indices without a register to write or to read. -/
theorem undefinedRegisterMovesAreRefused : Obligations.UndefinedRegisterMovesAreRefused := by
  intro s idx v rest
  exact ⟨fun hpending hidx => (step_of_pending hpending).trans (moveWrite_undefined hidx v _),
    fun hpending hidx => (step_of_pending hpending).trans (moveRead_undefined hidx _)⟩

/-! ### Memory -/

/-- The step that writes bytes inside `MEM` (20_memory.md R50). -/
theorem step_memWrite {s : State} {a : Nat} {bs : List Byte} {rest : List HostMove}
    (h : s.pending = .memwr a bs :: rest) (hspan : hostSpan s.memSize a bs.length = true) :
    step s = .next { s with pending := rest, mem := s.mem.writeBytes a bs } :=
  (step_of_pending h).trans (if_pos hspan)

/-- The step that reads bytes inside `MEM` (20_memory.md R50). -/
theorem step_memRead {s : State} {a n : Nat} {rest : List HostMove} (h : s.pending = .memrd a n :: rest)
    (hspan : hostSpan s.memSize a n = true) :
    step s = .next { s with pending := rest, answers := .bytes (s.mem.readBytes a n) :: s.answers } :=
  (step_of_pending h).trans (if_pos hspan)

/-- Settles O11: the bytes stored are those of `Memory.read_writeBytes`. -/
theorem hostMemoryWriteStores : Obligations.HostMemoryWriteStores := by
  intro s a bs rest hwf hpending hrange
  refine ⟨_, step_memWrite hpending ((hostSpan_iff _ _ _).2 (.inr hrange)), fun k hk => ?_, fun x hx => ?_, rfl⟩
  · rw [Memory.read_writeBytes hwf, if_pos (Nat.le_add_right a k), Nat.add_sub_cancel_left, List.getD_eq_getElem _ _ hk]
  · rw [Memory.read_writeBytes hwf]
    split
    · exact List.getD_eq_default _ _ (by omega)
    · rfl

/-- Bytes read are those at the consecutive addresses (00_scope.md R12). -/
theorem Memory.readBytes_eq_map (m : Memory) (a n : Nat) :
    m.readBytes a n = (List.range n).map fun k => m.read (a + k) := by
  induction n generalizing a with
  | zero => rfl
  | succ n ih =>
    have hplace (k : Nat) : a + 1 + k = a + (k + 1) := by omega
    simp only [Memory.readBytes, ih, hplace, List.range_succ_eq_map, List.map_cons, List.map_map, Nat.add_zero]
    rfl

/-- Settles O12: the answer is `Memory.readBytes`, address by address. -/
theorem hostMemoryReadReturnsTheBytes : Obligations.HostMemoryReadReturnsTheBytes := by
  intro s a n rest hpending hrange
  rw [step_memRead hpending ((hostSpan_iff _ _ _).2 (.inr hrange)), Memory.readBytes_eq_map]

/-- A span of at least one byte past the end of `MEM` is outside. -/
theorem not_hostSpan {memSize a n : Nat} (hn : n ≠ 0) (h : memSize < a + n) : ¬ hostSpan memSize a n = true := by
  rw [hostSpan_iff]
  omega

/-- Settles O13: the span of the move is outside. -/
theorem hostMemoryAccessOutsideIsRefused : Obligations.HostMemoryAccessOutsideIsRefused := by
  intro s a n bs rest
  refine ⟨fun hpending hbytes hout => ?_, fun hpending hbytes hout => ?_⟩
  · exact (step_of_pending hpending).trans (if_neg (not_hostSpan (mt List.eq_nil_of_length_eq_zero hbytes) hout))
  · exact (step_of_pending hpending).trans (if_neg (not_hostSpan hbytes hout))

/-! ### Reset -/

/-- `STATUS` with every field cleared reads 0 (10_state.md R41). -/
theorem Status.toWord_cleared : Status.cleared.toWord = 0#32 := by decide

/-- Settles O14: `resetCore` clears `STATUS`, so the input check of the four commands fails. -/
theorem resetMoveClearsStatusAndKeepsMemory : Obligations.ResetMoveClearsStatusAndKeepsMemory := by
  intro s rest hpending
  refine ⟨resetCore (s.setPending rest), step_of_pending hpending, Status.toWord_cleared, rfl, rfl, rfl, rfl,
    fun i hi => ?_⟩
  have hidle : (resetCore (s.setPending rest)).status.bv4ph = .idle := rfl
  have hcheck : commandCheck i (resetCore (s.setPending rest)) = .missingInput := by
    simp only [List.mem_cons, List.not_mem_nil, or_false] at hi
    rcases hi with rfl | rfl | rfl | rfl
    · exact State.checkBlock_of_notLoaded (.inl rfl)
    · exact State.checkBlock_of_notLoaded (.inl rfl)
    · exact State.checkCbcmac_of_notLoaded (.inl rfl)
    · exact State.checkCrypt_of_notReady (hidle ▸ by decide) (hidle ▸ by decide)
  rw [exec_of_commandCheck hcheck (by decide), State.refuse_eq]

/-! ### Script lines -/

/-- A run of one step. -/
theorem runSteps_one {s t : State} (h : step s = .next t) : runSteps 1 s = .next t := runSteps_succ_of_step h 0

/-- A mnemonic runs its command (30_encoding.md R82). -/
theorem step_scriptCommand {s : State} {i : Instr} {rest : List HostMove} (h : s.pending = scriptCommand i ++ rest) :
    step s = exec i { s with cmd := encode i, pending := rest } :=
  (step_issue h).trans (issueWord_encode i _)

/-- Settles O15: the operand moves, then the mnemonic. -/
theorem commandLinesRunAsTheirExpansions : Obligations.CommandLinesRunAsTheirExpansions := by
  intro s i a n rest
  constructor
  · intro hpending
    obtain ⟨t, ht⟩ := exec_isNext i { s with addr := a, cmd := encode i, pending := rest }
    have haddr : step s = .next { s with addr := a, pending := scriptCommand i ++ rest } := step_write hpending rfl
    exact ⟨t, ht, (runSteps_succ_of_step haddr 1).trans (runSteps_one ((step_scriptCommand rfl).trans ht))⟩
  · intro hpending
    obtain ⟨t, ht⟩ := exec_isNext i { s with addr := a, len := n, cmd := encode i, pending := rest }
    have haddr : step s = .next { s with addr := a, pending := .wr 3 n :: (scriptCommand i ++ rest) } :=
      step_write hpending rfl
    have hlen : step { s with addr := a, pending := .wr 3 n :: (scriptCommand i ++ rest) } =
        .next { s with addr := a, len := n, pending := scriptCommand i ++ rest } := step_write rfl rfl
    exact ⟨t, ht, (runSteps_succ_of_step haddr 2).trans
      ((runSteps_succ_of_step hlen 1).trans (runSteps_one ((step_scriptCommand rfl).trans ht)))⟩

/-- The two halves of a seed make up the seed (30_encoding.md R83). -/
theorem seed_halves (v : BitVec 64) :
    (v.extractLsb' 32 32).toNat * 2 ^ 32 + (v.extractLsb' 0 32).toNat = v.toNat := by
  have hv := v.isLt
  simp only [BitVec.extractLsb'_toNat, Nat.shiftRight_eq_div_pow]
  omega

/-- Settles O16: each line is its register writes in order, after its reads for `SEEDFROMRES`. -/
theorem operandLinesRunAsTheirExpansions : Obligations.OperandLinesRunAsTheirExpansions := by
  intro s v c d e rest
  refine ⟨fun hpending => ?_, fun hpending => ?_, fun hpending => ?_⟩
  · refine ⟨_, (runSteps_succ_of_step (step_write hpending rfl) 1).trans (runSteps_one (step_write rfl rfl)),
      seed_halves v, rfl⟩
  · exact (runSteps_succ_of_step (step_write hpending rfl) 2).trans
      ((runSteps_succ_of_step (step_write rfl rfl) 1).trans (runSteps_one (step_write rfl rfl)))
  · exact (runSteps_succ_of_step (step_read hpending rfl) 3).trans
      ((runSteps_succ_of_step (step_read rfl rfl) 2).trans
        ((runSteps_succ_of_step (step_write rfl rfl) 1).trans (runSteps_one (step_write rfl rfl))))

/-! ### What a move can do -/

/-- The states a move can go on to from s: a command run, an illegal word refused, a register written, an answer given,
bytes stored inside `MEM`, or a Reset. `moveResult_of_performMove` says that these are all. -/
inductive MoveResult (s : State) : State → Prop where
  | command {w : Word} {i : Instr} {t : State} (run : exec i (s.setCmd w) = .next t) : MoveResult s t
  | illegal (w : Word) : MoveResult s ((s.setCmd w).refuse .illegalCommand)
  | register {idx : Nat} {v : Word} {t : State} (write : s.writeRegister idx v = some t) : MoveResult s t
  | answer (v : Answer) : MoveResult s (s.answer v)
  | store {a : Nat} {bs : List Byte} (span : hostSpan s.memSize a bs.length = true) :
      MoveResult s (s.setMem (s.mem.writeBytes a bs))
  | reset : MoveResult s (resetCore s)

theorem moveResult_of_issueWord {w : Word} {s t : State} (h : issueWord w s = .next t) : MoveResult s t := by
  rcases issueWord_cases w s with ⟨i, -, hrun⟩ | ⟨e, -, hrefused⟩
  · exact .command (hrun ▸ h)
  · cases hrefused.symm.trans h
    exact .illegal w

theorem moveResult_of_moveWrite {idx : Nat} {v : Word} {s t : State} (h : moveWrite idx v s = .next t) :
    MoveResult s t := by
  unfold moveWrite at h
  split at h
  next => exact moveResult_of_issueWord h
  next =>
    split at h
    next u hwrite =>
      cases h
      exact .register hwrite
    next => contradiction

/-- Every move that goes on does one of the six. -/
theorem moveResult_of_performMove {m : HostMove} {s t : State} (h : performMove m s = .next t) : MoveResult s t := by
  cases m with
  | wr idx v => exact moveResult_of_moveWrite h
  | rd idx =>
    simp only [performMove, moveRead] at h
    split at h <;> cases h
    exact .answer _
  | memwr a bs =>
    simp only [performMove, moveMemWrite] at h
    split at h <;> cases h
    next hspan => exact .store hspan
  | memrd a n =>
    simp only [performMove, moveMemRead] at h
    split at h <;> cases h
    exact .answer _
  | reset =>
    cases h
    exact .reset

/-- A move leaves the size of memory and the moves still to come. -/
theorem performMove_frame {m : HostMove} {s t : State} (h : performMove m s = .next t) :
    t.memLast = s.memLast ∧ t.pending = s.pending := by
  cases moveResult_of_performMove h with
  | command hrun =>
    obtain ⟨st, hi, lo, k, tab, b, m, rfl⟩ := exec_frame hrun
    exact ⟨rfl, rfl⟩
  | illegal w => exact ⟨rfl, rfl⟩
  | register hwrite =>
    obtain ⟨a, n, hi, lo, c, d, e, rfl⟩ := State.writeRegister_frame hwrite
    exact ⟨rfl, rfl⟩
  | answer v => exact ⟨rfl, rfl⟩
  | store hspan => exact ⟨rfl, rfl⟩
  | reset => exact ⟨rfl, rfl⟩

/-- A move of the host's move set goes on (93_implementation_defined.md U9). -/
theorem performMove_isNext {m : HostMove} {s : State} (h : m.wellFormed s.memSize = true) :
    ∃ t, performMove m s = .next t := by
  cases m with
  | wr idx v =>
    by_cases hidx : idx = 0
    · rcases issueWord_cases v s with ⟨i, -, hrun⟩ | ⟨e, -, hrefused⟩
      · obtain ⟨t, ht⟩ := exec_isNext i (s.setCmd v)
        exact ⟨t, (if_pos hidx).trans (hrun.trans ht)⟩
      · exact ⟨_, (if_pos hidx).trans hrefused⟩
    · have hwritable : (s.writeRegister idx v).isSome = true := by
        simpa [State.writeRegister_isSome, HostMove.wellFormed, hostMayWrite, hidx] using h
      obtain ⟨t, hwrite⟩ := Option.isSome_iff_exists.1 hwritable
      exact ⟨t, moveWrite_of_writeRegister hwrite⟩
  | rd idx =>
    obtain ⟨v, hread⟩ := Option.isSome_iff_exists.1 ((s.readRegister_isSome idx).trans h)
    exact ⟨_, moveRead_of_readRegister hread⟩
  | memwr a bs => exact ⟨_, if_pos h⟩
  | memrd a n => exact ⟨_, if_pos h⟩
  | reset => exact ⟨_, rfl⟩

/-- A step of a legal script goes on and leaves a legal script. -/
theorem step_keeps_legalScript (s : State) (h : s.legalScript) : ∃ t, step s = .next t ∧ t.legalScript := by
  rcases step_cases s with ⟨-, hstep⟩ | ⟨m, rest, hpending, hstep⟩
  · exact ⟨s, hstep, h⟩
  · rw [State.legalScript, hpending] at h
    obtain ⟨hmove, hrest⟩ := List.forall_mem_cons.1 h
    obtain ⟨t, ht⟩ := performMove_isNext (s := s.setPending rest) hmove
    obtain ⟨hlast, hmoves⟩ := performMove_frame ht
    refine ⟨t, hstep.trans ht, ?_⟩
    rw [State.legalScript, hmoves, State.memSize, hlast]
    exact hrest

/-- Settles O19: legality of the script is kept by every step, so every run goes on. -/
theorem legalScriptsRunOn : Obligations.LegalScriptsRunOn := fun _ => runsOn_of_kept step_keeps_legalScript

end Sys2Proof.Machine

/-! SUPPORT. The invariant `State.Inv`: it holds after reset, every move keeps it, and so does every step. -/

namespace Sys2Proof.Machine

/-! ### What the invariant reads -/

/-- The invariant reads `STATUS`, the BV4 registers, memory and its size only. -/
theorem State.Inv.congr {s t : State} (h : s.Inv) (hmem : t.mem = s.mem) (hlast : t.memLast = s.memLast)
    (hstatus : t.status = s.status) (hbv4 : t.bv4 = s.bv4) : t.Inv where
  memWf := hmem ▸ h.memWf
  memBelow := by
    rw [hmem, State.memSize, hlast]
    exact h.memBelow
  errCode := hstatus ▸ h.errCode
  phaseSettled := hstatus ▸ h.phaseSettled
  warmIndex := by
    rw [hstatus, hbv4]
    exact h.warmIndex
  warmTable := by
    rw [hstatus, hbv4]
    exact h.warmTable

/-- A refusal keeps the invariant: it sets `ERR` and a code other than 0 (60_exceptions.md R172). -/
theorem State.Inv.refuse {s : State} (h : s.Inv) {c : ECode} (hc : c ≠ .none) : (s.refuse c).Inv where
  memWf := h.memWf
  memBelow := h.memBelow
  errCode := by simpa using hc
  phaseSettled := h.phaseSettled
  warmIndex := h.warmIndex
  warmTable := h.warmTable

/-- Settles O17: memory is empty, `STATUS` is cleared and the phase is Idle. -/
theorem resetStateMeetsTheInvariant : Obligations.ResetStateMeetsTheInvariant := by
  refine ⟨⟨Memory.wf_nil, List.forall_mem_nil _, ?_, ?_, ?_, ?_⟩, Status.toWord_cleared, fun _ => rfl⟩
  · exact iff_of_true rfl rfl
  · exact Phase.noConfusion
  · exact fun h => Phase.noConfusion h
  · exact fun h => Phase.noConfusion h

/-! ### Commands -/

/-- Word steps inside `MEM` list no address outside it (20_memory.md R57). -/
theorem wordSteps_mem_below {n a size : Nat} {s : State} (h : s.mem.below size) (hrange : a + 4 * n ≤ size) :
    (wordSteps n a s).mem.below size := by
  induction n generalizing a s with
  | zero => exact h
  | succ n ih =>
    refine ih (s := wordStep a s) (Memory.writeBytes_below h ?_) (by omega)
    rw [unbe32_length]
    omega

/-- A block written inside `MEM` keeps memory canonical and inside its bound. -/
theorem Memory.writeBlock_settled {m : Memory} {a size : Nat} (hwf : m.wf) (hbelow : m.below size)
    (hrange : a + 8 ≤ size) (b : Block) : (m.writeBytes a b.toList).wf ∧ (m.writeBytes a b.toList).below size :=
  ⟨Memory.writeBytes_wf hwf a _, Memory.writeBytes_below hbelow (by rwa [Vector.length_toList])⟩

/-- An accepted command keeps memory canonical and inside its bound (20_memory.md R57). -/
theorem commandEffect_mem_settled {i : Instr} {u : State} (hpass : passesChecks i u) (hwf : u.mem.wf)
    (hbelow : u.mem.below u.memSize) (s : State) :
    (commandEffect i s u).mem.wf ∧ (commandEffect i s u).mem.below u.memSize := by
  cases i
  case penc =>
    obtain ⟨-, hrange⟩ := hpass
    simp only [commandEffect_penc]
    exact Memory.writeBlock_settled hwf hbelow hrange _
  case pdec =>
    obtain ⟨-, hrange⟩ := hpass
    simp only [commandEffect_pdec]
    exact Memory.writeBlock_settled hwf hbelow hrange _
  case bv4crypt =>
    obtain ⟨-, -, hrange⟩ := hpass
    simp only [commandEffect_bv4crypt]
    exact ⟨wordSteps_mem_wf hwf _ _, wordSteps_mem_below hbelow (by omega)⟩
  all_goals
    rw [commandEffect_mem (by decide)]
    exact ⟨hwf, hbelow⟩

/-- An effect that ends in phase WarmedUp is a keying, or it leaves the phase and the BV4 registers
(10_state.md R36). -/
theorem commandEffect_warmedUp {i : Instr} {s u : State} (h : (commandEffect i s u).status.bv4ph = .warmedUp) :
    (∃ key, (commandEffect i s u).bv4 = warmUp (keySchedule key u.bv4)) ∨
      (u.status.bv4ph = .warmedUp ∧ (commandEffect i s u).bv4 = u.bv4) := by
  by_cases hkey : i = .bv4key
  · subst hkey
    exact .inl ⟨_, by rw [commandEffect_bv4key]⟩
  · rw [commandEffect_phase, if_neg hkey] at h
    split at h
    next => contradiction
    next hcrypt =>
      refine .inr ⟨h, ?_⟩
      by_cases hi : i = .bv4crypt
      · have hempty : u.len.toNat / 4 = 0 := Nat.div_eq_of_lt (Nat.lt_of_not_le fun hlen => hcrypt ⟨hi, hlen⟩)
        simp only [hi, commandEffect_bv4crypt, hempty, Function.iterate_zero, id_eq]
      · exact commandEffect_bv4 ⟨hkey, hi⟩ s u

/-- No effect ends in phase KeyScheduled that did not begin in it (10_state.md R36). -/
theorem commandEffect_phaseSettled {u : State} (h : u.status.bv4ph ≠ .keyScheduled) (i : Instr) (s : State) :
    (commandEffect i s u).status.bv4ph ≠ .keyScheduled := by
  rw [commandEffect_phase]
  split
  · decide
  · split
    · decide
    · exact h

/-- The effect of an accepted command keeps the invariant. -/
theorem State.Inv.commandEffect {i : Instr} {u : State} (h : u.Inv) (hpass : passesChecks i u) (s : State) :
    (commandEffect i s u).Inv := by
  obtain ⟨hwf, hbelow⟩ := commandEffect_mem_settled hpass h.memWf h.memBelow s
  obtain ⟨herr, hcode⟩ := commandEffect_err i s u
  have hsize : (Machine.commandEffect i s u).memSize = u.memSize := by
    obtain ⟨st, hi, lo, k, tab, b, m, hframe⟩ := commandEffect_frame i s u
    rw [hframe]
    rfl
  refine ⟨hwf, by rwa [hsize], by rw [herr, hcode]; exact h.errCode, commandEffect_phaseSettled h.phaseSettled i s,
    fun hphase => ?_, fun hphase => ?_⟩
  · rcases commandEffect_warmedUp hphase with ⟨key, hkeyed⟩ | ⟨hwarm, hsame⟩
    · rw [hkeyed, warmUp_keySchedule_i]
    · rw [hsame, h.warmIndex hwarm]
  · rcases commandEffect_warmedUp hphase with ⟨key, hkeyed⟩ | ⟨hwarm, hsame⟩
    · rw [hkeyed]
      exact (keyedStreamIsAPermutation key u.bv4).2.1
    · rw [hsame]
      exact h.warmTable hwarm

/-- Acceptance keeps the invariant: it clears `ERR` and `ECODE` together (60_exceptions.md R174). -/
theorem State.Inv.accept {s : State} (h : s.Inv) : s.accept.Inv where
  memWf := h.memWf
  memBelow := h.memBelow
  errCode := iff_of_true rfl rfl
  phaseSettled := h.phaseSettled
  warmIndex := h.warmIndex
  warmTable := h.warmTable

/-- The checks read neither `ERR` nor `ECODE`. -/
theorem passesChecks_accept {i : Instr} {s : State} (h : passesChecks i s) : passesChecks i s.accept := by
  cases i <;> exact h

/-- A command keeps the invariant, refused or accepted. -/
theorem State.Inv.exec {i : Instr} {s t : State} (h : s.Inv) (hrun : exec i s = .next t) : t.Inv := by
  rcases exec_next_cases hrun with ⟨-, -, c, hc, rfl⟩ | ⟨-, -, hpass, rfl⟩
  · exact h.refuse (by rcases hc with rfl | rfl | rfl <;> decide)
  · exact h.accept.commandEffect (passesChecks_accept hpass) s

/-! ### Moves -/

/-- Bytes stored by the host keep the invariant: they lie inside `MEM` (20_memory.md R50). -/
theorem State.Inv.memWrite {s : State} (h : s.Inv) {a : Nat} {bs : List Byte}
    (hspan : hostSpan s.memSize a bs.length = true) : (s.setMem (s.mem.writeBytes a bs)).Inv where
  memWf := Memory.writeBytes_wf h.memWf a bs
  memBelow := by
    rcases (hostSpan_iff _ _ _).1 hspan with hempty | hrange
    · rw [List.eq_nil_of_length_eq_zero hempty]
      exact h.memBelow
    · exact Memory.writeBytes_below h.memBelow hrange
  errCode := h.errCode
  phaseSettled := h.phaseSettled
  warmIndex := h.warmIndex
  warmTable := h.warmTable

/-- A Reset keeps the invariant: memory as it was, `STATUS` 0 (10_state.md R41). -/
theorem State.Inv.resetCore {s : State} (h : s.Inv) : (resetCore s).Inv where
  memWf := h.memWf
  memBelow := h.memBelow
  errCode := iff_of_true rfl rfl
  phaseSettled := Phase.noConfusion
  warmIndex := fun hphase => Phase.noConfusion hphase
  warmTable := fun hphase => Phase.noConfusion hphase

/-- A word written to `CMD` keeps the invariant. -/
theorem State.Inv.setCmd {s : State} (h : s.Inv) (w : Word) : (s.setCmd w).Inv := h.congr rfl rfl rfl rfl

/-- Every move keeps the invariant. -/
theorem State.Inv.performMove {m : HostMove} {s t : State} (h : s.Inv) (hmove : performMove m s = .next t) :
    t.Inv := by
  cases moveResult_of_performMove hmove with
  | command hrun => exact (h.setCmd _).exec hrun
  | illegal w => exact (h.setCmd w).refuse (by decide)
  | register hwrite =>
    obtain ⟨a, n, hi, lo, c, d, e, rfl⟩ := State.writeRegister_frame hwrite
    exact h.congr rfl rfl rfl rfl
  | answer v => exact h.congr rfl rfl rfl rfl
  | store hspan => exact h.memWrite hspan
  | reset => exact h.resetCore

/-- Settles O18: a step is nothing, or one move on the state with that move taken from the list. -/
theorem stepKeepsTheInvariant : Obligations.StepKeepsTheInvariant := by
  intro s t h hstep
  rcases step_cases s with ⟨-, hidle⟩ | ⟨m, rest, -, hmove⟩
  · rw [hidle] at hstep
    injection hstep with hst
    exact hst ▸ h
  · have htaken : (s.setPending rest).Inv := h.congr rfl rfl rfl rfl
    exact htaken.performMove (hmove ▸ hstep)

end Sys2Proof.Machine

/-! SUPPORT. The bits of the `STATUS` word (10_state.md R23) and the bytes of memory (20_memory.md R51): a field lies in
the word above those below it, a word is big-endian, and a memory in canonical form is known by what it reads. -/

namespace Sys2Proof.Machine

/-! ### The `STATUS` word -/

/-- The value of bits set above others. -/
theorem append_toNat {n m : Nat} (x : BitVec n) (y : BitVec m) : (x ++ y).toNat = x.toNat * 2 ^ m + y.toNat := by
  rw [BitVec.toNat_append, ← Nat.shiftLeft_add_eq_or_of_lt y.isLt, Nat.shiftLeft_eq]

/-- The value of the `STATUS` word: each field at its place (10_state.md R23). -/
theorem Status.toWord_toNat (st : Status) :
    st.toWord.toNat = st.bv4ph.toBits.toNat * 2 ^ 8 + st.rv.toNat * 2 ^ 6 + st.sv.toNat * 2 ^ 5 + st.kv.toNat * 2 ^ 4 +
      st.ecode.toBits.toNat * 2 ^ 1 + st.err.toNat := by
  simp only [Status.toWord, append_toNat, BitVec.toNat_ofNat, BitVec.toNat_ofBool]
  omega

/-- A bit of a word, read from the word's value. -/
theorem getLsbD_of_toNat {w : Word} {n : Nat} {bit : Bool} (h : w.toNat / 2 ^ n % 2 = bit.toNat) :
    w.getLsbD n = bit := by
  rw [← BitVec.testBit_toNat, Nat.testBit_eq_decide_div_mod_eq, h]
  cases bit <;> rfl

/-- A field of a word, read from the word's value. -/
theorem extractLsb'_toNat_div (w : Word) (place width : Nat) :
    (w.extractLsb' place width).toNat = w.toNat / 2 ^ place % 2 ^ width := by
  rw [BitVec.extractLsb'_toNat, Nat.shiftRight_eq_div_pow]

/-- Settles O29: each field is read from the value of the word, in which every lower field stays below its place. -/
theorem statusWordLayout : Obligations.StatusWordLayout := by
  intro st
  have hvalue := st.toWord_toNat
  have herr := st.err.toNat_lt
  have hcode := st.ecode.toBits.isLt
  have hkv := st.kv.toNat_lt
  have hsv := st.sv.toNat_lt
  have hrv := st.rv.toNat_lt
  have hphase := st.bv4ph.toBits.isLt
  have hcodeField : (st.toWord.extractLsb' 1 3).toNat = st.ecode.toBits.toNat := by
    rw [extractLsb'_toNat_div]
    omega
  have hphaseField : (st.toWord.extractLsb' 8 2).toNat = st.bv4ph.toBits.toNat := by
    rw [extractLsb'_toNat_div]
    omega
  have hreserved : (st.toWord.extractLsb' 10 22).toNat = 0 := by
    rw [extractLsb'_toNat_div]
    omega
  refine ⟨getLsbD_of_toNat (by omega), ?_, getLsbD_of_toNat (by omega), getLsbD_of_toNat (by omega),
    getLsbD_of_toNat (by omega), getLsbD_of_toNat (by rw [Bool.toNat_false]; omega), ?_,
    BitVec.eq_of_toNat_eq hreserved⟩
  · rw [hcodeField]
    cases st.ecode <;> rfl
  · rw [hphaseField]
    cases st.bv4ph <;> rfl

/-! ### Words in memory -/

/-- The value of four bytes, the first the most significant (00_scope.md R11). -/
theorem be32_toNat (b0 b1 b2 b3 : Byte) :
    (be32 b0 b1 b2 b3).toNat = b0.toNat * 2 ^ 24 + b1.toNat * 2 ^ 16 + b2.toNat * 2 ^ 8 + b3.toNat := by
  rw [be32, append_toNat, append_toNat, append_toNat]
  omega

/-- Settles O30: the value is that of `be32`; a word written reads back, and its write leaves the other bytes. -/
theorem wordsInMemoryAreBigEndian : Obligations.WordsInMemoryAreBigEndian := by
  intro m a w hwf
  exact ⟨be32_toNat _ _ _ _, Memory.read32_write32 hwf a w, fun _ => Memory.read_write32_outside hwf w⟩

/-! ### The canonical form -/

/-- The first listed cell reads as its byte. -/
theorem Memory.read_head (c : Host.Cell) (m : Memory) : Memory.read (c :: m) c.1 = c.2 := if_pos rfl

/-- In a canonical list the first address is the lowest that does not read blank: a list that reads the same begins
at or below it. -/
theorem Memory.head_le_of_read_eq {c d : Host.Cell} {m m' : Memory} (h : Memory.wf (c :: m))
    (h' : Memory.wf (d :: m')) (hread : ∀ a, Memory.read (c :: m) a = Memory.read (d :: m') a) : d.1 ≤ c.1 := by
  by_contra hlt
  have hbelow : ∀ e ∈ d :: m', c.1 < e.1 := List.forall_mem_cons.2
    ⟨Nat.lt_of_not_le hlt, fun e he => (Nat.lt_of_not_le hlt).trans (Memory.wf_head_lt h' e he)⟩
  have hblank := hread c.1
  rw [Memory.read_head, Memory.read_of_lt_all hbelow] at hblank
  exact h.2 c List.mem_cons_self hblank

/-- The rest of a canonical list reads blank at the address of its first cell, and as the whole list elsewhere. -/
theorem Memory.read_tail {c : Host.Cell} {m : Memory} (h : Memory.wf (c :: m)) (a : Nat) :
    Memory.read m a = if a = c.1 then Memory.blankByte else Memory.read (c :: m) a := by
  split
  next ha =>
    rw [ha]
    exact Memory.read_of_lt_all (Memory.wf_head_lt h)
  next ha => exact (if_neg ha).symm

/-- A canonical memory that lists a cell does not read blank everywhere. -/
theorem Memory.read_cons_ne_nil {c : Host.Cell} {m : Memory} (h : Memory.wf (c :: m)) :
    ¬ ∀ a, Memory.read (c :: m) a = Memory.read [] a := fun hread =>
  h.2 c List.mem_cons_self ((Memory.read_head c m).symm.trans (hread c.1))

/-- Settles O31: two canonical lists that read alike have the same first cell, and their rests read alike. -/
theorem equalReadsMeanEqualMemories : Obligations.EqualReadsMeanEqualMemories := by
  intro m m' h h' hread
  induction m generalizing m' with
  | nil =>
    cases m' with
    | nil => rfl
    | cons d m' => exact absurd (fun a => (hread a).symm) (Memory.read_cons_ne_nil h')
  | cons c m ih =>
    cases m' with
    | nil => exact absurd hread (Memory.read_cons_ne_nil h)
    | cons d m' =>
      have haddr : c.1 = d.1 := Nat.le_antisymm
        (Memory.head_le_of_read_eq h' h fun a => (hread a).symm) (Memory.head_le_of_read_eq h h' hread)
      have hbyte : c.2 = d.2 := by
        rw [← Memory.read_head c m, hread, haddr, Memory.read_head]
      have hrest : m = m' := ih m' (Memory.wf_tail h) (Memory.wf_tail h') fun a => by
        rw [Memory.read_tail h, Memory.read_tail h', hread, haddr]
      rw [Prod.ext haddr hbyte, hrest]

end Sys2Proof.Machine

/-! SUPPORT. Parve decryption against encryption (41_parve.md R105, R108): a decrypt step undoes the encrypt step at its
positions, and rounds and ciphers run the same steps in the opposite order, so each undoes the other whole. Then the
S-boxes of R110 that hide the key, PENC and PDEC on memory, and the MAC of one block (42_cbcmac.md R126). -/

namespace Sys2Proof.Machine

/-! ### Undoing a chain -/

/-- Steps undone in the opposite order undo the chain. -/
theorem foldl_reverse_undoes {α β : Type} {f g : β → α → β} {l : List α} (h : ∀ p ∈ l, ∀ b, g (f b p) p = b) (b : β) :
    l.reverse.foldl g (l.foldl f b) = b := by
  induction l generalizing b with
  | nil => rfl
  | cons p l ih =>
    obtain ⟨hp, hl⟩ := List.forall_mem_cons.1 h
    rw [List.foldl_cons, List.reverse_cons, List.foldl_append, ih hl, List.foldl_cons, List.foldl_nil, hp]

/-! ### Steps -/

/-- The rotates by one place undo each other (00_scope.md R10). -/
theorem rotr8_rotl8_one : ∀ v : Byte, rotr8 (rotl8 v 1) 1 = v := by decide

theorem rotl8_rotr8_one : ∀ v : Byte, rotl8 (rotr8 v 1) 1 = v := by decide

/-- The S-box index of a step reads its source byte only. -/
theorem parveIndex_set (k b : Block) {source target : Fin 8} (h : source ≠ target) (v r : Byte) :
    parveIndex k (b.set target v) source r = parveIndex k b source r := by
  have hsource : (b.set target v)[source] = b[source] := Vector.getElem_set_ne _ _ (Fin.val_ne_of_ne h.symm)
  rw [parveIndex, hsource, parveIndex]

/-- A decrypt step undoes the encrypt step at its positions (41_parve.md R105). -/
theorem decStep_encStep (k : Block) (tab : Vector Byte 256) (r : Byte) {p : Fin 8 × Fin 8} (h : p.1 ≠ p.2) (b : Block) :
    decStep k tab r (encStep k tab r b p) p = b := by
  rw [decStep, encStep, parveIndex_set k b h, Vector.set_set, Fin.getElem_fin, Vector.getElem_set_self, rotr8_rotl8_one,
    BitVec.add_sub_cancel]
  exact Vector.set_getElem_self _

/-- An encrypt step undoes the decrypt step at its positions (41_parve.md R105). -/
theorem encStep_decStep (k : Block) (tab : Vector Byte 256) (r : Byte) {p : Fin 8 × Fin 8} (h : p.1 ≠ p.2) (b : Block) :
    encStep k tab r (decStep k tab r b p) p = b := by
  rw [encStep, decStep, parveIndex_set k b h, Vector.set_set, Fin.getElem_fin, Vector.getElem_set_self,
    BitVec.sub_add_cancel, rotl8_rotr8_one]
  exact Vector.set_getElem_self _

/-! ### Rounds and ciphers -/

/-- A round of decryption visits the positions of a round of encryption in the opposite order (41_parve.md R105). -/
theorem decOrder_eq_reverse : decOrder = encOrder.reverse := rfl

/-- No step goes from a byte to itself. -/
theorem encOrder_source_ne_target : ∀ p ∈ encOrder, p.1 ≠ p.2 := by decide

/-- The rounds of decryption have the numbers of those of encryption in the opposite order (41_parve.md R106). -/
theorem decRounds_eq_reverse : decRounds = encRounds.reverse := rfl

theorem decRound_encRound (k : Block) (tab : Vector Byte 256) (r : Byte) (b : Block) :
    decRound k tab (encRound k tab b r) r = b := by
  rw [decRound, encRound, decOrder_eq_reverse]
  exact foldl_reverse_undoes (fun p hp => decStep_encStep k tab r (encOrder_source_ne_target p hp)) b

theorem encRound_decRound (k : Block) (tab : Vector Byte 256) (r : Byte) (b : Block) :
    encRound k tab (decRound k tab b r) r = b := by
  have hne : ∀ p ∈ decOrder, p.1 ≠ p.2 := fun p hp => encOrder_source_ne_target p (List.mem_reverse.1 hp)
  rw [encRound, decRound, ← List.reverse_reverse encOrder, ← decOrder_eq_reverse]
  exact foldl_reverse_undoes (fun p hp => encStep_decStep k tab r (hne p hp)) b

/-- Settles O35: the steps of the two rounds undo each other in the opposite order. -/
theorem decryptRoundUndoesEncryptRound : Obligations.DecryptRoundUndoesEncryptRound := fun k b tab r =>
  ⟨decRound_encRound k tab r b, encRound_decRound k tab r b⟩

theorem parveDec_parveEnc (k : Block) (tab : Vector Byte 256) (b : Block) :
    parveDec k tab (parveEnc k tab b) = b := by
  rw [parveDec, parveEnc, decRounds_eq_reverse]
  exact foldl_reverse_undoes (fun r _ => decRound_encRound k tab r) b

theorem parveEnc_parveDec (k : Block) (tab : Vector Byte 256) (b : Block) :
    parveEnc k tab (parveDec k tab b) = b := by
  rw [parveEnc, parveDec, ← List.reverse_reverse encRounds, ← decRounds_eq_reverse]
  exact foldl_reverse_undoes (fun r _ => encRound_decRound k tab r) b

/-- Settles O37: the rounds of the two ciphers undo each other in the opposite order. -/
theorem parveDecryptInvertsEncrypt : Obligations.ParveDecryptInvertsEncrypt := fun k b tab =>
  ⟨parveDec_parveEnc k tab b, parveEnc_parveDec k tab b⟩

/-! ### Constant S-boxes -/

/-- Every cell of a constant table. -/
theorem byteAt_replicate (c t : Byte) : byteAt (Vector.replicate 256 c) t = c := by
  rw [byteAt, Vector.getElem_replicate]

/-- Under an all-zero S-box a round turns every byte by one place: each byte is a target once (41_parve.md R102). -/
theorem encRound_zeroSbox_get (k b : Block) (r : Byte) (j : Fin 8) :
    (encRound k (Vector.replicate 256 0#8) b r)[j] = b[j].rotateLeft 1 := by
  obtain ⟨i, rfl⟩ : ∃ i, j = i + 1 := ⟨j - 1, (sub_add_cancel j 1).symm⟩
  rw [encRound_get_succ, byteAt_replicate, BitVec.add_zero]

/-- Under an all-zero S-box rounds turn every byte by as many places as there are rounds. -/
theorem encRounds_zeroSbox_get (k : Block) (rs : List Byte) (b : Block) (j : Fin 8) :
    (rs.foldl (encRound k (Vector.replicate 256 0#8)) b)[j] = (fun v : Byte => v.rotateLeft 1)^[rs.length] b[j] := by
  induction rs generalizing b with
  | nil => rfl
  | cons r rs ih => rw [List.foldl_cons, ih, encRound_zeroSbox_get, List.length_cons, Function.iterate_succ_apply]

/-- Eight turns by one place are none. -/
theorem rotateLeft_one_iterate_eight : ∀ v : Byte, (fun v : Byte => v.rotateLeft 1)^[8] v = v := by decide

/-- Under an all-zero S-box encryption leaves every block (41_parve.md R110 case 1). -/
theorem parveEnc_zeroSbox (k b : Block) : parveEnc k (Vector.replicate 256 0#8) b = b := by
  refine Vector.ext fun j hj => ?_
  have hbyte := encRounds_zeroSbox_get k encRounds b ⟨j, hj⟩
  rwa [encRounds_length, rotateLeft_one_iterate_eight] at hbyte

/-- Under a constant S-box the key has no effect on a step (41_parve.md R110 case 2). -/
theorem encStep_constantSbox (k k' : Block) (c : Byte) :
    encStep k (Vector.replicate 256 c) = encStep k' (Vector.replicate 256 c) := by
  funext r b p
  rw [encStep, encStep, byteAt_replicate, byteAt_replicate]

theorem decStep_constantSbox (k k' : Block) (c : Byte) :
    decStep k (Vector.replicate 256 c) = decStep k' (Vector.replicate 256 c) := by
  funext r b p
  rw [decStep, decStep, byteAt_replicate, byteAt_replicate]

theorem encRound_constantSbox (k k' : Block) (c : Byte) :
    encRound k (Vector.replicate 256 c) = encRound k' (Vector.replicate 256 c) := by
  funext b r
  rw [encRound, encRound, encStep_constantSbox k k']

theorem decRound_constantSbox (k k' : Block) (c : Byte) :
    decRound k (Vector.replicate 256 c) = decRound k' (Vector.replicate 256 c) := by
  funext b r
  rw [decRound, decRound, decStep_constantSbox k k']

/-- Settles O38: under the all-zero S-box decryption undoes an encryption that leaves the block. -/
theorem constantSboxHidesTheKey : Obligations.ConstantSboxHidesTheKey := by
  intro k k' b c
  refine ⟨parveEnc_zeroSbox k b, ?_, ?_, ?_⟩
  · have hundo := parveDec_parveEnc k (Vector.replicate 256 0#8) b
    rwa [parveEnc_zeroSbox] at hundo
  · rw [parveEnc, parveEnc, encRound_constantSbox k k']
  · rw [parveDec, parveDec, decRound_constantSbox k k']

/-! ### PENC and PDEC on memory -/

/-- A block written reads back (20_memory.md R52). -/
theorem Memory.readArray_writeBlock {m : Memory} (h : m.wf) (a : Nat) (b : Block) :
    (m.writeBytes a b.toList).readArray a 8 = b := by
  refine Vector.ext fun i hi => ?_
  rw [Memory.readArray_get]
  exact Memory.read_writeBlock h a b ⟨i, hi⟩

/-- Writing a block's old bytes back over new ones restores memory whole. -/
theorem Memory.writeBlock_restore {m : Memory} (h : m.wf) (a : Nat) (b : Block) :
    (m.writeBytes a b.toList).writeBytes a (m.readArray a 8).toList = m := by
  have hwf := Memory.writeBytes_wf h a b.toList
  refine equalReadsMeanEqualMemories _ _ (Memory.writeBytes_wf hwf a _) h fun x => ?_
  by_cases hx : x < a ∨ a + 8 ≤ x
  · rw [Memory.read_writeBlock_outside hwf _ hx, Memory.read_writeBlock_outside h _ hx]
  · obtain ⟨i, rfl⟩ : ∃ i, x = a + i := Nat.exists_eq_add_of_le (by omega)
    have hi : i < 8 := by omega
    exact (Memory.read_writeBlock hwf a _ ⟨i, hi⟩).trans (Memory.readArray_get m a 8 i hi)

/-- A block command and then one that undoes it restore memory whole (41_parve.md R108). -/
theorem exec_blockCommands_restore {i j : Instr} {f g : Block → Block} {s : State} (hundo : ∀ b, g (f b) = b)
    (hwf : s.mem.wf) (hi : commandEffect i s = transformBlock f) (hpass : passesChecks i s)
    (hj : commandEffect j (transformBlock f s.accept) = transformBlock g)
    (hpass' : passesChecks j (transformBlock f s.accept)) :
    ∃ t u, exec i s = .next t ∧ exec j t = .next u ∧ u.mem = s.mem := by
  refine ⟨transformBlock f s.accept, _, hi ▸ exec_of_passesChecks hpass, exec_of_passesChecks hpass', ?_⟩
  calc (commandEffect j (transformBlock f s.accept) (transformBlock f s.accept).accept).mem
      _ = (s.mem.writeBytes s.base (f (s.mem.readArray s.base 8)).toList).writeBytes s.base
            (g ((s.mem.writeBytes s.base (f (s.mem.readArray s.base 8)).toList).readArray s.base 8)).toList := by
        rw [hj]
        rfl
      _ = s.mem := by rw [Memory.readArray_writeBlock hwf, hundo, Memory.writeBlock_restore hwf]

/-- Settles O41: each of the two commands undoes the other, under the same key and S-box. -/
theorem pencAndPdecRestoreMemory : Obligations.PencAndPdecRestoreMemory := by
  intro s hwf hkv hsv hrange
  have hpass : (s.status.kv = true ∧ s.status.sv = true) ∧ s.addr.toNat + 8 ≤ s.memSize := ⟨⟨hkv, hsv⟩, hrange⟩
  exact ⟨exec_blockCommands_restore (parveDec_parveEnc s.key s.sbox) hwf rfl hpass rfl hpass,
    exec_blockCommands_restore (parveEnc_parveDec s.key s.sbox) hwf rfl hpass rfl hpass⟩

/-! ### The MAC of one block -/

/-- The chain over one block encrypts it: the zero block absorbs it unchanged (42_cbcmac.md R126). -/
theorem chainBlockAt_one (k : Block) (tab : Vector Byte 256) (m : Memory) (a : Nat) :
    chainBlockAt k tab m a 1 = parveEnc k tab (m.readArray a 8) := by
  have hblock : (Vector.ofFn fun i : Fin 8 => (chainBlockAt k tab m a 0)[i] ^^^ m.read (a + 8 * 0 + i.val)) =
      m.readArray a 8 := by
    simp only [chainBlockAt_zero_get, BitVec.zero_xor, Nat.mul_zero, Nat.add_zero, Memory.readArray]
  rw [chainBlockAt_succ, hblock]

/-- Settles O44: with `LEN` = 8 the chain goes over one block. -/
theorem oneBlockMacIsOneEncryption : Obligations.OneBlockMacIsOneEncryption := by
  intro s hkv hsv hlen hrange
  have hbytes : s.len.toNat = 8 := congrArg BitVec.toNat hlen
  have hpass : passesChecks .cbcmac s :=
    ⟨⟨hkv, hsv⟩, by rw [hbytes]; exact ⟨Nat.le_refl 8, rfl⟩, by rwa [hbytes]⟩
  refine ⟨_, exec_of_passesChecks hpass, (commandEffect_err .cbcmac s s.accept).1, ?_, ?_⟩
  all_goals
    simp only [commandEffect_cbcmac, State.accept_len, hbytes]
    exact congrArg _ (chainBlockAt_one _ _ _ _)

end Sys2Proof.Machine

/-! SUPPORT. Runs of BV4CRYPT against one another (43_bv4.md R140, R143, R144): a run reads the buffer only to XOR it, a
run in two pieces is the run of both, and the same keystream XORed twice restores memory. -/

namespace Sys2Proof.Machine

/-! ### What a run of word steps leaves alone -/

/-- An update of the state that a word step does not see goes through a run. -/
theorem wordSteps_comm {f : State → State} (h : ∀ a s, wordStep a (f s) = f (wordStep a s)) (n a : Nat) (s : State) :
    wordSteps n a (f s) = f (wordSteps n a s) := by
  induction n generalizing a s with
  | zero => rfl
  | succ n ih => rw [wordSteps, h, ih, wordSteps]

/-- The state with another operand: `ADDR` and `LEN` as `SETBUF` leaves them (30_encoding.md R83). -/
def State.withOperand (s : State) (a n : Word) : State := { s with addr := a, len := n }

/-- A run sees no operand register: it is given its address and its number of words. -/
theorem wordSteps_withOperand (k b : Nat) (s : State) (a n : Word) :
    wordSteps k b (s.withOperand a n) = (wordSteps k b s).withOperand a n :=
  wordSteps_comm (f := fun s => s.withOperand a n) (fun _ _ => rfl) k b s

/-- A run of an accepted command leaves `ERR` and `ECODE` cleared: accepting again changes nothing. -/
theorem accept_wordSteps_accept (k b : Nat) (s : State) :
    (wordSteps k b s.accept).accept = wordSteps k b s.accept :=
  (wordSteps_comm (f := State.accept) (fun _ _ => rfl) k b s.accept).symm

/-- A run leaves the size of memory. -/
theorem wordSteps_memSize (n a : Nat) (s : State) : (wordSteps n a s).memSize = s.memSize := by
  obtain ⟨m, b, p, hframe⟩ := wordSteps_frame n a s
  rw [hframe]
  rfl

/-- An accepted BV4CRYPT on the operand (a, n) is a run on the accepted state, whose operand registers it leaves. -/
theorem exec_bv4crypt_withOperand {s : State} {a n : Word}
    (hready : s.status.bv4ph = .warmedUp ∨ s.status.bv4ph = .streaming) (hlen : n.toNat % 4 = 0)
    (hrange : a.toNat + n.toNat ≤ s.memSize) :
    exec .bv4crypt (s.withOperand a n) =
      .next ((wordSteps (n.toNat / 4) a.toNat s.accept).withOperand a n) :=
  (exec_bv4crypt_accepted (s := s.withOperand a n) ⟨hready, hlen, hrange⟩).trans
    (congrArg _ (wordSteps_withOperand _ _ s.accept a n))

/-! ### The keystream -/

/-- The keystream word is what XOR of a word before and after gives. -/
theorem xor_xor_cancel_left (x k : Word) : x ^^^ k ^^^ x = k := by
  rw [BitVec.xor_comm x k, BitVec.xor_assoc, BitVec.xor_self, BitVec.xor_zero]

/-- Settles O52: the BV4 state goes on by itself, and each word is XORed with the keystream word of that state. -/
theorem keystreamIgnoresTheBuffer : Obligations.KeystreamIgnoresTheBuffer := by
  intro s m hwf hwf' hpass
  have hwfAccept : s.accept.mem.wf := hwf
  have hwfAccept' : ({ s with mem := m } : State).accept.mem.wf := hwf'
  refine ⟨_, _, exec_bv4crypt_accepted hpass, exec_bv4crypt_accepted (s := { s with mem := m }) hpass, ?_,
    fun n hn => ?_⟩
  · rw [wordSteps_bv4, wordSteps_bv4]
    rfl
  · rw [wordSteps_read32 hwfAccept _ hn, wordSteps_read32 hwfAccept' _ hn, State.accept_mem, State.accept_mem,
      xor_xor_cancel_left, xor_xor_cancel_left]
    rfl

/-! ### A run in two pieces -/

/-- A run of `n + l` word steps is one of `n`, then one of `l` from where it stopped (43_bv4.md R144). -/
theorem wordSteps_add (n l a : Nat) (s : State) :
    wordSteps (n + l) a s = wordSteps l (a + 4 * n) (wordSteps n a s) := by
  induction n generalizing a s with
  | zero => simp [wordSteps]
  | succ n ih =>
    have hcount : n + 1 + l = n + l + 1 := by omega
    have hplace : a + 4 + 4 * n = a + 4 * (n + 1) := by omega
    rw [hcount, wordSteps, ih, hplace, wordSteps]

/-- A keystream that exists is still there after a run. -/
theorem wordSteps_ready {s : State} (h : s.status.bv4ph = .warmedUp ∨ s.status.bv4ph = .streaming) (n a : Nat) :
    (wordSteps n a s).status.bv4ph = .warmedUp ∨ (wordSteps n a s).status.bv4ph = .streaming := by
  rw [wordSteps_phase]
  split
  · exact h
  · exact .inr rfl

/-- The second piece of a run begins at the sum of `ADDR` and the first piece's bytes. An empty one begins anywhere; else
the sum does not wrap, the whole buffer being inside `MEM`. -/
theorem wordSteps_split {a n1 n2 : Word} (hlen1 : n1.toNat % 4 = 0) (hlen2 : n2.toNat % 4 = 0)
    (hrange : a.toNat + (n1.toNat + n2.toNat) ≤ 2 ^ 32) (s : State) :
    wordSteps ((n1.toNat + n2.toNat) / 4) a.toNat s =
      wordSteps (n2.toNat / 4) (a + n1).toNat (wordSteps (n1.toNat / 4) a.toNat s) := by
  have hcount : (n1.toNat + n2.toNat) / 4 = n1.toNat / 4 + n2.toNat / 4 := by omega
  rw [hcount, wordSteps_add]
  rcases Nat.eq_zero_or_pos (n2.toNat / 4) with hempty | hpos
  · rw [hempty, wordSteps, wordSteps]
  · have hplace : a.toNat + 4 * (n1.toNat / 4) = (a + n1).toNat := by
      rw [BitVec.toNat_add]
      omega
    rw [hplace]

/-- Settles O53: the two commands are the two pieces of one run, on operand registers no word step sees. -/
theorem streamMayBeSplit : Obligations.StreamMayBeSplit := by
  rintro s n1 n2 ⟨hready, hlen, hrange⟩ hsum hlen1
  have hlen2 : n2.toNat % 4 = 0 := by omega
  have hsize : s.memSize ≤ 2 ^ 32 := s.memLast.isLt
  have hrange1 : s.addr.toNat + n1.toNat ≤ s.memSize := by omega
  have hrange2 : (s.addr + n1).toNat + n2.toNat ≤ s.memSize := by
    rw [BitVec.toNat_add]
    omega
  have hwhole := wordSteps_split (a := s.addr) hlen1 hlen2 (by omega) s.accept
  have haccept := accept_wordSteps_accept (n1.toNat / 4) s.addr.toNat s
  have hready' := wordSteps_ready (s := s.accept) hready (n1.toNat / 4) s.addr.toNat
  have hsize' := wordSteps_memSize (n1.toNat / 4) s.addr.toNat s.accept
  refine ⟨_, _, _, exec_bv4crypt_accepted ⟨hready, hlen, hrange⟩, exec_bv4crypt_withOperand hready hlen1 hrange1,
    exec_bv4crypt_withOperand (s := wordSteps (n1.toNat / 4) s.addr.toNat s.accept) hready' hlen2
      (hrange2.trans_eq hsize'.symm), ?_⟩
  rw [hsum, hwhole, haccept]
  exact ⟨rfl, rfl, rfl⟩

/-! ### The same run twice -/

/-- Words that read alike have the same bytes (20_memory.md R51). -/
theorem Memory.read_of_read32_eq {m m' : Memory} {a k : Nat} (h : m.read32 a = m'.read32 a) (hk : k < 4) :
    m.read (a + k) = m'.read (a + k) := by
  have hvalue : (m.read32 a).toNat = (m'.read32 a).toNat := congrArg BitVec.toNat h
  simp only [Memory.read32, be32_toNat] at hvalue
  have hbyte (m : Memory) (x : Nat) : (m.read x).toNat < 2 ^ 8 := (m.read x).isLt
  have h0 := hbyte m a
  have h1 := hbyte m (a + 1)
  have h2 := hbyte m (a + 2)
  have h3 := hbyte m (a + 3)
  have h0' := hbyte m' a
  have h1' := hbyte m' (a + 1)
  have h2' := hbyte m' (a + 2)
  have h3' := hbyte m' (a + 3)
  apply BitVec.eq_of_toNat_eq
  interval_cases k
  · rw [Nat.add_zero]
    omega
  all_goals omega

/-- Two runs with the same BV4 state to begin with, one on the memory the other leaves, restore memory
(43_bv4.md R143). -/
theorem wordSteps_twice {s s' : State} {n a : Nat} (hwf : s.mem.wf) (hmem : s'.mem = (wordSteps n a s).mem)
    (hbv4 : s'.bv4 = s.bv4) : (wordSteps n a s').mem = s.mem := by
  have hwf' : s'.mem.wf := by
    rw [hmem]
    exact wordSteps_mem_wf hwf n a
  refine equalReadsMeanEqualMemories _ _ (wordSteps_mem_wf hwf' n a) hwf fun x => ?_
  by_cases hx : x < a ∨ a + 4 * n ≤ x
  · rw [wordSteps_read_outside hwf' n a hx, hmem, wordSteps_read_outside hwf n a hx]
  · obtain ⟨q, k, hk, hq, rfl⟩ : ∃ q k, k < 4 ∧ q < n ∧ x = a + 4 * q + k :=
      ⟨(x - a) / 4, (x - a) % 4, Nat.mod_lt _ (by decide), by omega, by omega⟩
    have hword : (wordSteps n a s').mem.read32 (a + 4 * q) = s.mem.read32 (a + 4 * q) := by
      rw [wordSteps_read32 hwf' a hq, hmem, wordSteps_read32 hwf a hq, hbv4, BitVec.xor_assoc, BitVec.xor_self,
        BitVec.xor_zero]
    exact Memory.read_of_read32_eq hword hk

/-- What an accepted BV4KEY at the address ka leaves (43_bv4.md R131). -/
theorem exec_bv4key_at {s : State} {ka : Word} (h : ka.toNat + 8 ≤ s.memSize) :
    ∃ t, exec .bv4key { s with addr := ka } = .next t ∧ t.mem = s.mem ∧ t.memSize = s.memSize ∧
      t.status.bv4ph = .warmedUp ∧ t.bv4 = warmUp (keySchedule (s.mem.readArray ka.toNat 8) s.bv4) :=
  ⟨_, exec_bv4key_accepted (s := { s with addr := ka }) h, rfl, rfl, rfl, rfl⟩

/-- Settles O54: the first run leaves the key bytes, so the second keying begins the second run with the BV4 state the
first began with. -/
theorem bv4IsAnInvolutionUnderOneKey : Obligations.Bv4IsAnInvolutionUnderOneKey := by
  intro s0 ka a n hwf hkey hrange hlen hapart
  obtain ⟨s1, hrun1, hmem1, hsize1, hphase1, hbv41⟩ := exec_bv4key_at hkey
  have hrun2 := exec_bv4crypt_withOperand (s := s1) (a := a) (n := n) (.inl hphase1) hlen (by rwa [hsize1])
  have hwf1 : s1.accept.mem.wf := by rwa [State.accept_mem, hmem1]
  have hsize2 : ((wordSteps (n.toNat / 4) a.toNat s1.accept).withOperand a n).memSize = s0.memSize :=
    (wordSteps_memSize _ _ s1.accept).trans hsize1
  obtain ⟨s3, hrun3, hmem3, hsize3, hphase3, hbv43⟩ := exec_bv4key_at (hsize2.symm ▸ hkey)
  have hrun4 := exec_bv4crypt_withOperand (s := s3) (a := a) (n := n) (.inl hphase3) hlen (by rwa [hsize3, hsize2])
  have hkeyBytes : ∀ i < 8, (wordSteps (n.toNat / 4) a.toNat s1.accept).mem.read (ka.toNat + i) =
      s0.mem.read (ka.toNat + i) := fun i hi => by
    rw [wordSteps_read_outside hwf1 _ _ (by omega), State.accept_mem, hmem1]
  have hbv4 : s3.bv4 = s1.bv4 := by
    rw [hbv43, hbv41, ← Memory.readArray_congr hkeyBytes]
    exact warmUp_keySchedule_congr _ _ _
  have hrestored := wordSteps_twice (s' := s3.accept) hwf1 hmem3 hbv4
  exact ⟨s1, _, s3, _, hrun1, hrun2, hrun3, hrun4, hrestored.trans hmem1⟩

end Sys2Proof.Machine

/-! SUPPORT. The modular chain-and-sum MAC (44_csmod.md): the loop as a sequence of accumulators over the words of the
buffer (R154), its results below P (R158), and its form in the integers modulo P (R159). -/

namespace Sys2Proof.Machine

/-! ### The reduction -/

theorem red_lt (v : Nat) : red v < 2147483647 := Nat.mod_lt v (by decide)

/-- A reduced value fits a result register. -/
theorem toNat_ofNat_red (v : Nat) : (BitVec.ofNat 32 (red v)).toNat = red v := by
  rw [BitVec.toNat_ofNat]
  exact Nat.mod_eq_of_lt ((red_lt v).trans (by decide))

/-- Reduction keeps the residue modulo P. -/
theorem natCast_red (v : Nat) : ((red v : Nat) : ZMod 2147483647) = v := ZMod.natCast_mod v _

/-! ### The words of the buffer -/

/-- Data word j of the buffer at a, its high bit dropped (44_csmod.md R153). -/
def Memory.dataWordAt (m : Memory) (a j : Nat) : Nat := dataWord (m.read32 (a + 4 * j))

/-- Dropping the high bit is reducing modulo 2^31. -/
theorem dataWord_eq_mod (w : Word) : dataWord w = w.toNat % 2 ^ 31 := by
  rw [dataWord, BitVec.toNat_and]
  exact Nat.and_two_pow_sub_one_eq_mod w.toNat 31

/-- The pairs of a buffer, the last one last (30_encoding.md R77). -/
theorem Memory.readPairs_succ (m : Memory) (a n : Nat) :
    m.readPairs a (n + 1) = m.readPairs a n ++ [(m.read32 (a + 4 * (2 * n)), m.read32 (a + 4 * (2 * n + 1)))] := by
  induction n generalizing a with
  | zero => rfl
  | succ n ih =>
    have heven : a + 8 + 4 * (2 * n) = a + 4 * (2 * (n + 1)) := by omega
    have hodd : a + 8 + 4 * (2 * n + 1) = a + 4 * (2 * (n + 1) + 1) := by omega
    rw [Memory.readPairs, ih, heven, hodd, Memory.readPairs, List.cons_append]

/-! ### The loop -/

/-- The accumulators after the first n pairs of the buffer at a. -/
def chainSumAt (c : CsmodKeys) (m : Memory) (a n : Nat) : CsmodAcc := csmodLoop c (m.readPairs a n)

/-- The chain in the middle of a pair, after its even word (44_csmod.md R154). -/
def csmodMid (c : CsmodKeys) (acc : CsmodAcc) (wEven : Nat) : Nat :=
  red (red (c.A * (acc.mac + red (c.E * wEven))) + c.B)

/-- Pair n takes the accumulators on by its two words (44_csmod.md R154). -/
theorem chainSumAt_succ (c : CsmodKeys) (m : Memory) (a n : Nat) :
    chainSumAt c m a (n + 1) =
      csmodPair c (chainSumAt c m a n) (m.dataWordAt a (2 * n)) (m.dataWordAt a (2 * n + 1)) := by
  rw [chainSumAt, Memory.readPairs_succ, csmodLoop, List.foldl_concat]
  rfl

theorem csmodPair_mac (c : CsmodKeys) (acc : CsmodAcc) (wEven wOdd : Nat) :
    (csmodPair c acc wEven wOdd).mac = red (red (c.C * (csmodMid c acc wEven + wOdd)) + c.D) := rfl

theorem csmodPair_sum (c : CsmodKeys) (acc : CsmodAcc) (wEven wOdd : Nat) :
    (csmodPair c acc wEven wOdd).sum =
      red (red (acc.sum + csmodMid c acc wEven) + (csmodPair c acc wEven wOdd).mac) := rfl

/-- The loop sees the data words of the buffer only (44_csmod.md R153). -/
theorem chainSumAt_congr {c : CsmodKeys} {m m' : Memory} {a n : Nat}
    (h : ∀ j < 2 * n, m.dataWordAt a j = m'.dataWordAt a j) : chainSumAt c m a n = chainSumAt c m' a n := by
  induction n with
  | zero => rfl
  | succ n ih =>
    rw [chainSumAt_succ, chainSumAt_succ, ih fun j hj => h j (by omega), h (2 * n) (by omega),
      h (2 * n + 1) (by omega)]

/-! ### The command -/

/-- The accumulators of a CSMOD on s when its loop ends: `LEN/8` pairs from `ADDR`. -/
def State.csmodEnd (s : State) : CsmodAcc := chainSumAt (csmodKeys s) s.mem s.addr.toNat (s.len.toNat / 8)

/-- An accepted CSMOD adds D and B once to the accumulators of its loop, delivers them, sets `RV` and changes nothing
else (44_csmod.md R154, R157). -/
theorem exec_csmod_accepted {s : State} (h : passesChecks .csmod s) :
    exec .csmod s = .next { s with
      status := { s.status with err := false, ecode := .none, rv := true }
      resHi := BitVec.ofNat 32 (red (s.csmodEnd.sum + s.kd.toNat))
      resLo := BitVec.ofNat 32 (red (s.csmodEnd.mac + red s.seedLo.toNat)) } := by
  rw [exec_of_passesChecks h, commandEffect_csmod]
  rfl

/-- A length below one pair or not of whole pairs is refused (20_memory.md R55, 60_exceptions.md R173). -/
theorem State.checkCsmod_of_badLength {s : State} (h : s.len.toNat < 8 ∨ s.len.toNat % 8 ≠ 0) :
    s.checkCsmod = .badLength := by
  rw [State.checkCsmod, State.bytes, (blockLength_eq_false_iff _).2 h]
  rfl

/-- The range is checked last (20_memory.md R57, 60_exceptions.md R173). -/
theorem State.checkCsmod_of_outOfRange {s : State} (hlen : 8 ≤ s.len.toNat ∧ s.len.toNat % 8 = 0)
    (h : s.memSize < s.addr.toNat + s.len.toNat) : s.checkCsmod = .badAddress := by
  rw [State.checkCsmod, State.bytes, (blockLength_iff _).2 hlen, (s.inRange_eq_false_iff _).2 h]
  rfl

/-- Settles O55: the sequences are the data words of the buffer and the accumulators after, and within, each pair. -/
theorem csmodComputesTheChainSum : Obligations.CsmodComputesTheChainSum := by
  intro s
  refine ⟨fun hlow hwhole hrange => ?_, fun hlen => ?_, fun hlow hwhole hout => ?_⟩
  · refine ⟨s.mem.dataWordAt s.addr.toNat,
      fun k => csmodMid (csmodKeys s) (chainSumAt (csmodKeys s) s.mem s.addr.toNat k)
        (s.mem.dataWordAt s.addr.toNat (2 * k)),
      fun k => (chainSumAt (csmodKeys s) s.mem s.addr.toNat k).mac,
      fun k => (chainSumAt (csmodKeys s) s.mem s.addr.toNat k).sum,
      fun m _ => dataWord_eq_mod _, rfl, rfl, fun k _ => ?_, exec_csmod_accepted ⟨⟨hlow, hwhole⟩, hrange⟩⟩
    simp only [chainSumAt_succ]
    exact ⟨rfl, csmodPair_mac _ _ _ _, csmodPair_sum _ _ _ _⟩
  · rw [exec_of_commandCheck (i := .csmod) (State.checkCsmod_of_badLength hlen) (by decide), State.refuse_eq]
  · rw [exec_of_commandCheck (i := .csmod) (State.checkCsmod_of_outOfRange ⟨hlow, hwhole⟩ hout) (by decide),
      State.refuse_eq]

/-- Settles O56: both results are delivered reduced. -/
theorem csmodResultsAreBelowP : Obligations.CsmodResultsAreBelowP := by
  intro s hpass
  refine ⟨_, exec_csmod_accepted hpass, ?_, ?_⟩
  · exact (toNat_ofNat_red _).trans_lt (red_lt _)
  · exact (toNat_ofNat_red _).trans_lt (red_lt _)

/-- Settles O57: the two buffers have the same data words, and the loop sees no more of them. -/
theorem csmodIgnoresBit31OfEachWord : Obligations.CsmodIgnoresBit31OfEachWord := by
  intro s m hpass hwords
  have hend : s.csmodEnd = ({ s with mem := m } : State).csmodEnd :=
    chainSumAt_congr fun j hj => congrArg BitVec.toNat (hwords j (by omega))
  refine ⟨_, _, exec_csmod_accepted hpass, exec_csmod_accepted (s := { s with mem := m }) hpass, ?_, ?_⟩
  · simp only [hend]
  · simp only [hend]

/-- Settles O58: the sequences of O55 in the integers modulo P, where no reduction is seen. -/
theorem csmodAlgebraicForm : Obligations.CsmodAlgebraicForm := by
  intro s hpass
  refine ⟨_, fun k => (s.mem.dataWordAt s.addr.toNat k : ZMod _),
    fun k => (csmodMid (csmodKeys s) (chainSumAt (csmodKeys s) s.mem s.addr.toNat k)
      (s.mem.dataWordAt s.addr.toNat (2 * k)) : ZMod _),
    fun k => ((chainSumAt (csmodKeys s) s.mem s.addr.toNat k).mac : ZMod _),
    fun k => ((chainSumAt (csmodKeys s) s.mem s.addr.toNat k).sum : ZMod _),
    fun k _ => rfl, Nat.cast_zero, Nat.cast_zero, fun k _ => ⟨?_, ?_, ?_⟩, exec_csmod_accepted hpass,
    (toNat_ofNat_red _).trans_lt (red_lt _), (toNat_ofNat_red _).trans_lt (red_lt _), ?_, ?_⟩
  · simp only [csmodMid, csmodKeys, natCast_red, Nat.cast_add, Nat.cast_mul]
  · simp only [chainSumAt_succ, csmodPair_mac, natCast_red, Nat.cast_add, Nat.cast_mul]
    rfl
  · simp only [chainSumAt_succ, csmodPair_sum, natCast_red, Nat.cast_add]
  · simp only [toNat_ofNat_red, natCast_red, Nat.cast_add]
    rfl
  · simp only [toNat_ofNat_red, natCast_red, Nat.cast_add]
    rfl

/-- With C congruent to 0 every pair ends with the chain at D (44_csmod.md R161). -/
theorem csmodPair_mac_of_zeroC {c : CsmodKeys} (h : c.C % 2147483647 = 0) (acc : CsmodAcc) (wEven wOdd : Nat) :
    (csmodPair c acc wEven wOdd).mac = red c.D := by
  have hzero (v : Nat) : red (c.C * v) = 0 := Nat.mod_eq_zero_of_dvd ((Nat.dvd_of_mod_eq_zero h).mul_right v)
  rw [csmodPair_mac, hzero, Nat.zero_add]

/-- Settles O59: the buffer has a last pair, which leaves D in the chain, and B is added at the end. -/
theorem csmodWithZeroKcFixesResLo : Obligations.CsmodWithZeroKcFixesResLo := by
  intro s hpass hzero
  have hmac : s.csmodEnd.mac = red s.kd.toNat := by
    obtain ⟨⟨hlow, -⟩, -⟩ := hpass
    obtain ⟨n, hn⟩ : ∃ n, s.len.toNat / 8 = n + 1 := Nat.exists_eq_succ_of_ne_zero (by omega)
    rw [State.csmodEnd, hn, chainSumAt_succ]
    exact csmodPair_mac_of_zeroC (c := csmodKeys s) hzero _ _ _
  refine ⟨_, exec_csmod_accepted hpass, ?_⟩
  calc (BitVec.ofNat 32 (red (s.csmodEnd.mac + red s.seedLo.toNat))).toNat
      _ = red (red s.kd.toNat + red s.seedLo.toNat) := by rw [toNat_ofNat_red, hmac]
      _ = (s.kd.toNat + s.seedLo.toNat) % 2147483647 := (Nat.add_mod _ _ _).symm

end Sys2Proof.Machine
